-- ==== Sys2Proof/Word.lean ====
section
/-! DEFINITION. The block's words (00_scope.md R6, R11, R12): a State byte, an integrity code, and a
matrix of 16 lanes addressed `[column][row]`. -/
namespace Sys2Proof

/-- A State byte or a round-key byte, bits `b0` to `b7` (R11). -/
abbrev Byte := BitVec 8

/-- A 4-bit integrity code, or a syndrome, bits `bit0` to `bit3` (R6, R11). -/
abbrev Nibble := BitVec 4

/-- One column of a 4 by 4 matrix: its entries by row 0 to 3 (R12). -/
structure Col (α : Type) where
  r0 : α
  r1 : α
  r2 : α
  r3 : α
deriving DecidableEq, Repr

/-- A 4 by 4 matrix, its columns 0 to 3: one entry per State byte (R12, 44_guarded_ops.md R165). -/
structure Lanes (α : Type) where
  c0 : Col α
  c1 : Col α
  c2 : Col α
  c3 : Col α
deriving DecidableEq, Repr

/-- The column with the same entry in every row. -/
def Col.fill {α : Type} (v : α) : Col α := ⟨v, v, v, v⟩

/-- The matrix with the same entry in every lane. -/
def Lanes.fill {α : Type} (v : α) : Lanes α := ⟨.fill v, .fill v, .fill v, .fill v⟩

end Sys2Proof
end

