-- ==== Sys2Proof/Config.lean ====
section
/-! DEFINITION. The two parameters an instance is built with (00_scope.md R7, R8, R9), the instance
that `State.reset` describes, and the free values. -/
namespace Sys2Proof

/-- The key-size variant, fixed when the instance is built (00_scope.md R7). -/
inductive Variant
  | aes128
  | aes192
  | aes256
deriving DecidableEq, Repr

/-- `Nk`, the number of 32-bit words of the cipher key (R7). -/
def Variant.nk : Variant → Nat
  | .aes128 => 4
  | .aes192 => 6
  | .aes256 => 8

/-- `Nr`, the number of rounds (R7). -/
def Variant.nr : Variant → Nat
  | .aes128 => 10
  | .aes192 => 12
  | .aes256 => 14

/-- The size of the cipher key in bytes (R7). -/
def Variant.keyBytes (v : Variant) : Nat := 4 * v.nk

/-- The size of the round-key memory in bytes, `Nb*(Nr+1)*4` with `Nb = 4` (R7, 10_state.md R32). -/
def Variant.rkBytes (v : Variant) : Nat := 4 * (v.nr + 1) * 4

/-- The value of CFG[1:0] (R7, 10_state.md R26). -/
def Variant.code : Variant → BitVec 2
  | .aes128 => 0
  | .aes192 => 1
  | .aes256 => 2

/-- Which ObservedCode the re-check after a correction compares (00_scope.md R8). -/
inductive Recheck
  | refresh
  | stale
deriving DecidableEq, Repr

/-- The value of CFG[2] (10_state.md R26). -/
def Recheck.isStale : Recheck → Bool
  | .refresh => false
  | .stale => true

/-- DESIGN CHOICE (assumption 1): the variant of the instance that `State.reset` describes, the one
the spec's vectors use. Every statement about the machine is for every variant. -/
def Config.variant : Variant := .aes128

/-- DESIGN CHOICE (assumption 1): the re-check of the instance that `State.reset` describes, the
spec's default (R8). Every statement about the machine is for either value. -/
def Config.recheck : Recheck := .refresh

/-- Free bytes, by a counter that State holds (assumptions 3 and 4): the bytes of State and RK after a
reset event (10_state.md R36) and the byte a host reads while BUSY (20_memory.md R58). -/
opaque Config.freeByte : Nat → Byte

/-- Free nibbles, by the same counter (assumption 3): PCODE after a reset event (10_state.md R36). -/
opaque Config.freeNibble : Nat → Nibble

end Sys2Proof
end

