-- ==== Sys2Proof/Syntax.lean ====
section
/-! DEFINITION. The twelve operations of the command word (30_encoding.md R82), one constructor per
row of the opcode table. -/
namespace Sys2Proof

/-- A command, or one micro-operation (30_encoding.md R82). -/
inductive Instr
  /-- NOP (46_system.md R190). -/
  | nop
  /-- SEED: derive PredictedCode from State (40_codec.md R102). -/
  | seed
  /-- GSUB: guarded SubBytes (44_guarded_ops.md R161). -/
  | gsub
  /-- GSHR: guarded ShiftRows (R162). -/
  | gshr
  /-- GMIX: guarded MixColumns (R163). -/
  | gmix
  /-- GARK k: guarded AddRoundKey with round key `k` (R164); `k` is the `arg` field (R84). -/
  | gark (k : BitVec 4)
  /-- ISHR: unguarded InvShiftRows (41_transforms.md R124). -/
  | ishr
  /-- ISUB: unguarded InvSubBytes (R125). -/
  | isub
  /-- IMIX: unguarded InvMixColumns (R126). -/
  | imix
  /-- ENC: encrypt the block in STATE (45_driver.md R170). -/
  | enc
  /-- DEC: decrypt the block in STATE (R171). -/
  | dec
  /-- CLRSTAT: clear the sticky flags and the event record (46_system.md R191). -/
  | clrstat
deriving DecidableEq, Repr

end Sys2Proof
end

