-- ==== Sys2Proof/WellFormed.lean ====
section
/-! DEFINITION. Which instructions a given instance has (30_encoding.md R84). -/
namespace Sys2Proof

/-- The one check on an operand: the round number of GARK is at most `Nr` (30_encoding.md R84). -/
def Instr.wellFormed (v : Variant) : Instr → Bool
  | .nop => true
  | .seed => true
  | .gsub => true
  | .gshr => true
  | .gmix => true
  | .gark k => k.toNat ≤ v.nr
  | .ishr => true
  | .isub => true
  | .imix => true
  | .enc => true
  | .dec => true
  | .clrstat => true

end Sys2Proof
end

