-- ==== Sys2Proof/Decode.lean ====
section
/-! DEFINITION. The decoder of the 8-bit command word (30_encoding.md R80, R86, R87), total and
refusing by name, and the encoder (R82, R84). -/
namespace Sys2Proof

/-- Why a word is no command (30_encoding.md R86). -/
inductive Illegal
  /-- `op` is one of 0xC to 0xF. -/
  | reservedOp
  /-- `arg` is not 0 and `op` is not GARK's. -/
  | argNotZero
  /-- A GARK word whose round number is above `Nr`. -/
  | roundAboveNr
deriving DecidableEq, Repr

/-- What the decoder answers: one of the twelve operations, or `illegal` with its reason (R87). -/
inductive Decoded
  | instr (i : Instr)
  | illegal (why : Illegal)
deriving DecidableEq, Repr

/-- The instruction decoded, if there is one. -/
def Decoded.instr? : Decoded → Option Instr
  | .instr i => some i
  | .illegal _ => none

/-- `op = w[7:4]` (R80). -/
def opField (w : Byte) : BitVec 4 := w.extractLsb' 4 4

/-- `arg = w[3:0]` (R80). -/
def argField (w : Byte) : BitVec 4 := w.extractLsb' 0 4

/-- The operations whose `arg` field must be 0, by operation code (R82). -/
def decodeOp : Nat → Decoded
  | 0x0 => .instr .nop
  | 0x1 => .instr .seed
  | 0x2 => .instr .gsub
  | 0x3 => .instr .gshr
  | 0x4 => .instr .gmix
  | 0x6 => .instr .ishr
  | 0x7 => .instr .isub
  | 0x8 => .instr .imix
  | 0x9 => .instr .enc
  | 0xA => .instr .dec
  | 0xB => .instr .clrstat
  | _ => .illegal .reservedOp

/-- `decode(w)` of R87 on an instance of variant `v`. -/
def decode (v : Variant) (w : Byte) : Decoded :=
  if opField w = 0x5#4 then
    if (argField w).toNat ≤ v.nr then .instr (.gark (argField w)) else .illegal .roundAboveNr
  else if argField w ≠ 0#4 then .illegal .argNotZero
  else decodeOp (opField w).toNat

/-- The word of an instruction, `op` in the high and `arg` in the low half (R80, R82). -/
def encode : Instr → Byte
  | .nop => 0x0#4 ++ 0#4
  | .seed => 0x1#4 ++ 0#4
  | .gsub => 0x2#4 ++ 0#4
  | .gshr => 0x3#4 ++ 0#4
  | .gmix => 0x4#4 ++ 0#4
  | .gark k => 0x5#4 ++ k
  | .ishr => 0x6#4 ++ 0#4
  | .isub => 0x7#4 ++ 0#4
  | .imix => 0x8#4 ++ 0#4
  | .enc => 0x9#4 ++ 0#4
  | .dec => 0xA#4 ++ 0#4
  | .clrstat => 0xB#4 ++ 0#4

/-- The instruction the decoder reads from the `nbits` low bits of `w`: a command is one 8-bit word
(R80, R89), decoded as the instance of `State.reset` decodes it. -/
def decodeTableWord (nbits w : Nat) : Option Instr :=
  (decode Config.variant (BitVec.ofNat 8 (w % 2 ^ nbits))).instr?

end Sys2Proof
end

