-- ==== Sys2Proof/Machine/State.lean ====
section
/-! DEFINITION. Everything the spec gives the machine (10_state.md), the model's own fields for the two
other agents (00_scope.md R10), the reasons a step can stop, and the state after reset. -/
namespace Sys2Proof.Machine

/-- `SEQ.mode` (10_state.md R23): operating states, not privilege modes (60_exceptions.md R210). -/
inductive Mode
  | idle
  | run
  | fault
deriving DecidableEq, Repr

/-- The environment's input of one guarded step (44_guarded_ops.md R160): the XOR masks of the
injection points A and B (State) and C (PredictedCode). -/
structure Seu where
  a : Lanes Byte
  b : Lanes Byte
  c : Lanes Nibble
deriving DecidableEq, Repr

/-- Fault-free operation, `a = b = c = 0` (R160). -/
def Seu.none : Seu := ⟨.fill 0, .fill 0, .fill 0⟩

/-- One move of an agent (00_scope.md R10), the input of one step. -/
inductive Move
  /-- The host's `RegWrite(addr, v)` (20_memory.md R57). -/
  | write (addr : BitVec 10) (v : Byte)
  /-- The host's `RegRead(addr)` (20_memory.md R56). -/
  | read (addr : BitVec 10)
  /-- One step of the CORE (45_driver.md R175), with the SEU environment's masks. -/
  | core (seu : Seu)
  /-- The pin `rst_n` goes low: reset is applied (70_reset_and_hazards.md R230). -/
  | rstFall
  /-- The pin `rst_n` goes high: its rising edge ends the reset (R230). -/
  | rstRise
deriving DecidableEq, Repr

/-- A byte memory as its listed cells, addresses strictly rising, no cell equal to what an unlisted
address reads as (`Memory.wf`). -/
abbrev Memory := List Host.Cell

/-- The machine. -/
structure State where
  /-- The instance's VARIANT, readable as CFG[1:0] (R7, R26); no step changes it. -/
  variant : Variant
  /-- The instance's RECHECK, readable as CFG[2] (R8, R26); no step changes it. -/
  recheck : Recheck
  /-- State `S`, 16 bytes (R20). -/
  S : Lanes Byte
  /-- PredictedCode `PCODE`, 16 nibbles (R21). -/
  pcode : Lanes Nibble
  /-- The round-key memory RK, byte-addressed from 0 (R32). -/
  rk : Memory
  /-- `SEQ.mode` (R23); STATUS.BUSY and STATUS.FAULT are views of it (R24). -/
  mode : Mode
  /-- `SEQ.top`, the last accepted command word, read back at CMD (R23, R25). -/
  top : BitVec 8
  /-- `SEQ.idx` (R23). -/
  idx : BitVec 8
  /-- STATUS.DONE (R24). -/
  done : Bool
  /-- STATUS.CORRECTED, sticky (R24). -/
  corrected : Bool
  /-- STATUS.CMDERR, sticky (R24). -/
  cmderr : Bool
  /-- LASTDIFF, 16 nibbles (R27). -/
  lastdiff : Lanes Nibble
  /-- LASTCORR (R28). -/
  lastcorr : BitVec 16
  /-- UNRECMASK (R29). -/
  unrecmask : BitVec 16
  /-- ESTEP (R30). -/
  estep : BitVec 8
  /-- EINDEX (R30). -/
  eindex : BitVec 8
  /-- FAILMASK (R31). -/
  failmask : BitVec 16
  /-- FCAUSE (R31). -/
  fcause : BitVec 8
  /-- The pin `rdata` (20_memory.md R50): the byte of the host's last read (assumption 7). -/
  rdata : Byte
  /-- The pin `rst_n` is low (20_memory.md R50); the block is in the reset state as long as it is
  (70_reset_and_hazards.md R230). -/
  rstLow : Bool
  /-- The masks the SEU environment applies in the current CORE step (R160); the model's own field
  (assumption 5). -/
  seu : Seu
  /-- The moves still to come, in order (R64); the model's own field (assumption 5). -/
  agenda : List Move
  /-- How many free values have been drawn; the model's own field (assumptions 3 and 4). -/
  free : Nat
deriving DecidableEq, Repr

/-- What a micro-operation ends in: it completed, or it raised the integrity Fault and the state is
that of the fail-stop entry (45_driver.md R175, 60_exceptions.md R204). -/
inductive MicroResult
  | ok (s : State)
  | raised (s : State)
deriving DecidableEq, Repr

/-- Reasons a step stops outside the spec's rules. The integrity Fault of 60_exceptions.md is none of
them: it is a next state in mode FAULT. -/
inductive Fault
  /-- Raised by `step` in mode RUN when the accepted word `SEQ.top` is no legal command, which
  30_encoding.md R81 excludes (assumption 8). Safe: no run reaches it. -/
  | illegalTop
  /-- Raised by a meaning when `SEQ.idx` is past the end of the command's list, which 10_state.md R23
  excludes (assumption 8). Safe: no run reaches it. -/
  | idxPastEnd
deriving DecidableEq, Repr

/-- Reasons an instruction has no meaning. -/
inductive Refusal
  /-- Raised by `exec` for an instruction without a meaning; safe. No arm of `exec` uses it. -/
  | notModelled (mnemonic : String)
deriving DecidableEq, Repr

/-- The state after reset of an instance (10_state.md R36). State, PCODE and RK, which R36 leaves
unspecified, are zero here: DESIGN CHOICE (assumption 2). The rising edge of `rst_n` has ended the
reset (assumption 3). -/
def State.resetOf (v : Variant) (r : Recheck) : State where
  variant := v
  recheck := r
  S := .fill 0
  pcode := .fill 0
  rk := []
  mode := .idle
  top := 0x00
  idx := 0
  done := false
  corrected := false
  cmderr := false
  lastdiff := .fill 0
  lastcorr := 0
  unrecmask := 0
  estep := 0
  eindex := 0
  failmask := 0
  fcause := 0
  rdata := 0
  rstLow := false
  seu := .none
  agenda := []
  free := 0

/-- The machine right after reset (10_state.md R36), as the instance the spec's vectors use
(assumption 1), with no move pending. -/
def State.reset : State := .resetOf Config.variant Config.recheck

end Sys2Proof.Machine
end

