-- ==== Sys2Proof/Machine/Flags.lean ====
section
/-! DEFINITION. Every flag and record register: STATUS, CFG and FCAUSE as the host reads them
(10_state.md R24, R26, R31), the event record (43_verify_correct.md R148) and CLRSTAT's clearing of it
(46_system.md R191). -/
namespace Sys2Proof.Machine

/-- STATUS.BUSY: `SEQ.mode = RUN` (10_state.md R24). -/
def State.busy (s : State) : Bool := s.mode == .run

/-- STATUS.FAULT: `SEQ.mode = FAULT` (R24). -/
def State.faulted (s : State) : Bool := s.mode == .fault

/-- STATUS: BUSY, DONE, FAULT, CORRECTED, CMDERR in bits 0 to 4, bits 7:5 read as 0 (R24). -/
def State.status (s : State) : Byte :=
  0#3 ++ BitVec.ofBool s.cmderr ++ BitVec.ofBool s.corrected ++ BitVec.ofBool s.faulted ++ BitVec.ofBool s.done ++
    BitVec.ofBool s.busy

/-- CFG: the VARIANT code in bits 1:0, RECHECK in bit 2, bits 7:3 read as 0 (R26). -/
def State.cfg (s : State) : Byte := 0#5 ++ BitVec.ofBool s.recheck.isStale ++ s.variant.code

/-- The output pins `busy`, `done`, `fault`: STATUS bits 0, 1, 2 (20_memory.md R50, 60_exceptions.md
R208). -/
def State.pins (s : State) : Bool × Bool × Bool := (s.busy, s.done, s.faulted)

/-- The value of FCAUSE at a fault: bit 0 UNCORRECTABLE, bit 1 UNRECOGNIZED (60_exceptions.md R204). -/
def fcauseOf (fail corr unrec : BitVec 16) : BitVec 8 :=
  0#6 ++ BitVec.ofBool (fail &&& unrec != 0) ++ BitVec.ofBool (fail &&& corr != 0)

/-- The event record an event step writes (43_verify_correct.md R148). -/
def recordEvent (opWord : Byte) (diff : Lanes Nibble) (corr unrec : BitVec 16) (s : State) : State :=
  { s with
    lastdiff := diff
    lastcorr := corr
    unrecmask := unrec
    estep := opWord
    eindex := s.idx
    corrected := s.corrected || corr != 0 }

/-- The sticky flags and the event record cleared (46_system.md R191); FAILMASK and FCAUSE stay. -/
def clearStatus (s : State) : State :=
  { s with
    corrected := false
    cmderr := false
    lastdiff := .fill 0
    lastcorr := 0
    unrecmask := 0
    estep := 0
    eindex := 0 }

/-- STATUS.CMDERR set, nothing else (30_encoding.md R88, 20_memory.md R58). -/
def setCmderr (s : State) : State := { s with cmderr := true }

end Sys2Proof.Machine
end

