-- ==== Sys2Proof/Machine/Ops.lean ====
section
/-! DEFINITION. The named operations over lanes, the round-key memory and the sequencer; entering the
fail-stop state (60_exceptions.md R204) and, beside it, its only exit, the reset event
(70_reset_and_hazards.md R230). -/
namespace Sys2Proof

/-- Row `r` of a column (00_scope.md R12). -/
def Col.get {α : Type} (x : Col α) : Nat → α
  | 0 => x.r0
  | 1 => x.r1
  | 2 => x.r2
  | _ => x.r3

/-- The column with row `r` replaced. -/
def Col.set {α : Type} (x : Col α) (r : Nat) (v : α) : Col α :=
  match r with
  | 0 => { x with r0 := v }
  | 1 => { x with r1 := v }
  | 2 => { x with r2 := v }
  | _ => { x with r3 := v }

/-- A function applied to every row. -/
def Col.map {α β : Type} (f : α → β) (x : Col α) : Col β := ⟨f x.r0, f x.r1, f x.r2, f x.r3⟩

/-- A function applied to the rows of two columns. -/
def Col.zipWith {α β γ : Type} (f : α → β → γ) (x : Col α) (y : Col β) : Col γ :=
  ⟨f x.r0 y.r0, f x.r1 y.r1, f x.r2 y.r2, f x.r3 y.r3⟩

/-- Column `c` (R12). -/
def Lanes.col {α : Type} (m : Lanes α) : Nat → Col α
  | 0 => m.c0
  | 1 => m.c1
  | 2 => m.c2
  | _ => m.c3

/-- The matrix with column `c` replaced. -/
def Lanes.setCol {α : Type} (m : Lanes α) (c : Nat) (x : Col α) : Lanes α :=
  match c with
  | 0 => { m with c0 := x }
  | 1 => { m with c1 := x }
  | 2 => { m with c2 := x }
  | _ => { m with c3 := x }

/-- `m[c][r]`: column `c`, row `r` (R12). -/
def Lanes.entry {α : Type} (m : Lanes α) (c r : Nat) : α := (m.col c).get r

/-- `m[n] = m[n div 4][n mod 4]`, the linear index `n = 4*c + r` (R12). -/
def Lanes.get {α : Type} (m : Lanes α) (n : Fin 16) : α := m.entry (n.val / 4) (n.val % 4)

/-- The matrix with entry `n` replaced (R12). -/
def Lanes.set {α : Type} (m : Lanes α) (n : Fin 16) (v : α) : Lanes α :=
  m.setCol (n.val / 4) ((m.col (n.val / 4)).set (n.val % 4) v)

/-- The matrix whose entry in column `c`, row `r` is `f c r` (R12). -/
def Lanes.build {α : Type} (f : Nat → Nat → α) : Lanes α :=
  ⟨⟨f 0 0, f 0 1, f 0 2, f 0 3⟩, ⟨f 1 0, f 1 1, f 1 2, f 1 3⟩,
    ⟨f 2 0, f 2 1, f 2 2, f 2 3⟩, ⟨f 3 0, f 3 1, f 3 2, f 3 3⟩⟩

/-- The matrix whose entry `n` is `f n`, `n = 4*c + r` (R12). -/
def Lanes.ofIndex {α : Type} (f : Nat → α) : Lanes α := .build fun c r => f (4 * c + r)

/-- A function applied to every lane (44_guarded_ops.md R165). -/
def Lanes.map {α β : Type} (f : α → β) (m : Lanes α) : Lanes β :=
  ⟨m.c0.map f, m.c1.map f, m.c2.map f, m.c3.map f⟩

/-- A function applied lane by lane to two matrices (R165). -/
def Lanes.zipWith {α β γ : Type} (f : α → β → γ) (m : Lanes α) (p : Lanes β) : Lanes γ :=
  ⟨.zipWith f m.c0 p.c0, .zipWith f m.c1 p.c1, .zipWith f m.c2 p.c2, .zipWith f m.c3 p.c3⟩

/-- A function applied to every column. -/
def Lanes.mapCol {α β : Type} (f : Col α → Col β) (m : Lanes α) : Lanes β :=
  ⟨f m.c0, f m.c1, f m.c2, f m.c3⟩

/-- Elementwise XOR (44_guarded_ops.md R160). -/
def Lanes.xor {w : Nat} (m p : Lanes (BitVec w)) : Lanes (BitVec w) := .zipWith (· ^^^ ·) m p

/-- The rows of a column, row 0 first. -/
def Col.toList {α : Type} (x : Col α) : List α := [x.r0, x.r1, x.r2, x.r3]

/-- The entries in the order of the linear index (R12). -/
def Lanes.toList {α : Type} (m : Lanes α) : List α :=
  m.c0.toList ++ m.c1.toList ++ m.c2.toList ++ m.c3.toList

/-- The 16-bit mask whose bit `n` is lane `n` (R12). -/
def maskOf (m : Lanes Bool) : BitVec 16 := (BitVec.ofBoolListLE m.toList).setWidth 16

namespace Machine

/-- What an address no cell lists reads as: DESIGN CHOICE (assumption 2), the byte that
`State.reset` gives RK, whose contents 10_state.md R36 leaves unspecified. -/
def Memory.unlisted : Byte := 0

/-- The byte at an address. -/
def Memory.read : Memory → Nat → Byte
  | [], _ => Memory.unlisted
  | (x, b) :: m, a => if x = a then b else Memory.read m a

/-- A cell in front of a memory, left out when it holds what an unlisted address reads as. -/
def Memory.cons (a : Nat) (v : Byte) (m : Memory) : Memory :=
  if v = Memory.unlisted then m else (a, v) :: m

/-- The memory with one byte written, in canonical form again. -/
def Memory.write : Memory → Nat → Byte → Memory
  | [], a, v => Memory.cons a v []
  | (x, b) :: m, a, v =>
    if a < x then Memory.cons a v ((x, b) :: m)
    else if a = x then Memory.cons a v m
    else (x, b) :: Memory.write m a v

/-- The canonical form: addresses strictly rising, no cell equal to what an unlisted address reads
as. -/
abbrev Memory.wf (m : Memory) : Prop :=
  m.Pairwise (fun c d => c.1 < d.1) ∧ ∀ c ∈ m, c.2 ≠ Memory.unlisted

/-- The bytes `f 0` to `f (n - 1)` written at the addresses 0 to `n - 1`. -/
def Memory.fill (f : Nat → Byte) : Nat → Memory
  | 0 => []
  | n + 1 => Memory.write (Memory.fill f n) n (f n)

/-- Acceptance of a command word (30_encoding.md R81). -/
def acceptCommand (w : Byte) (s : State) : State :=
  { s with top := w, idx := 0, mode := .run, done := false }

/-- Completion of a command: RUN to IDLE with DONE (45_driver.md R175). -/
def complete (s : State) : State := { s with mode := .idle, idx := 0, done := true }

/-- `raise Fault(fail, corr, unrec)`: the entry into the fail-stop state (60_exceptions.md R204).
`SEQ.idx`, `SEQ.top` and the event record stay. -/
def raiseFault (fail corr unrec : BitVec 16) (s : State) : State :=
  { s with
    failmask := fail
    fcause := fcauseOf fail corr unrec
    mode := .fault
    done := false }

/-- The reset event (70_reset_and_hazards.md R230), the only exit from FAULT (60_exceptions.md R207):
control state, STATUS and records at their reset values (10_state.md R36), the instance's parameters
kept, and State, PCODE and RK free values (assumption 3). The pins and the other agents' fields stay,
and no upset is pending. -/
def resetEvent (s : State) : State :=
  { State.resetOf s.variant s.recheck with
    S := .ofIndex fun n => Config.freeByte (s.free + n)
    pcode := .ofIndex fun n => Config.freeNibble (s.free + n)
    rk := Memory.fill (fun a => Config.freeByte (s.free + 16 + a)) s.variant.rkBytes
    rdata := s.rdata
    rstLow := s.rstLow
    agenda := s.agenda
    free := s.free + 16 + s.variant.rkBytes }

end Machine
end Sys2Proof
end

