-- ==== Sys2Proof/Machine/Operands.lean ====
section
/-! DEFINITION. Operands: GARK's round key (30_encoding.md R84, 20_memory.md R63), and the registers a
host address names, with the packing of the wide ones (20_memory.md R51, R52). -/
namespace Sys2Proof.Machine

/-- Round key `k`, the bytes `RK[16*k .. 16*k + 15]`, byte `16*k + n` in lane `n` (10_state.md R32,
20_memory.md R63). -/
def roundKey (rk : Memory) (k : Nat) : Lanes Byte := .ofIndex fun n => Memory.read rk (16 * k + n)

/-- A register of the host's address map (20_memory.md R51). -/
inductive Reg
  | state (n : Fin 16)
  | cmd
  | status
  | cfg
  | fcause
  | estep
  | eindex
  | failmask (high : Bool)
  | lastcorr (high : Bool)
  | unrecmask (high : Bool)
  | pcode (j : Fin 8)
  | lastdiff (j : Fin 8)
  | rk (a : Nat)
  | reserved
deriving DecidableEq, Repr

/-- The registers at the addresses 0x010 to 0x01F (R51). -/
def controlReg : Nat → Reg
  | 0x010 => .cmd
  | 0x011 => .status
  | 0x012 => .cfg
  | 0x013 => .fcause
  | 0x014 => .estep
  | 0x015 => .eindex
  | 0x016 => .failmask false
  | 0x017 => .failmask true
  | 0x018 => .lastcorr false
  | 0x019 => .lastcorr true
  | 0x01A => .unrecmask false
  | 0x01B => .unrecmask true
  | _ => .reserved

/-- The register at the address `a`, on an instance of variant `v` (R51). -/
def regOf (v : Variant) (a : Nat) : Reg :=
  if h : a < 0x010 then .state ⟨a, h⟩
  else if a < 0x020 then controlReg a
  else if a < 0x028 then .pcode (Fin.ofNat 8 (a - 0x020))
  else if a < 0x030 then .lastdiff (Fin.ofNat 8 (a - 0x028))
  else if 0x100 ≤ a ∧ a < 0x100 + v.rkBytes then .rk (a - 0x100)
  else .reserved

/-- The register a host's bus address names (20_memory.md R50, R51). -/
def regAt (v : Variant) (addr : BitVec 10) : Reg := regOf v addr.toNat

/-- One byte of a 16-bit mask register, the low byte at the lower address (R52 (a)). -/
def maskByte (m : BitVec 16) (high : Bool) : Byte :=
  if high then m.extractLsb' 8 8 else m.extractLsb' 0 8

/-- Lane `2*j` of a packed nibble matrix. -/
def evenLane (j : Fin 8) : Fin 16 := ⟨2 * j.val, by omega⟩

/-- Lane `2*j + 1` of a packed nibble matrix. -/
def oddLane (j : Fin 8) : Fin 16 := ⟨2 * j.val + 1, by omega⟩

/-- The byte at offset `j` of a packed nibble matrix: nibble `2*j` in bits 3:0 and nibble `2*j + 1` in
bits 7:4 (R52 (b)). -/
def packByte (m : Lanes Nibble) (j : Fin 8) : Byte := m.get (oddLane j) ++ m.get (evenLane j)

end Sys2Proof.Machine
end

