-- ==== Sys2Proof/Machine/Bus.lean ====
section
/-! DEFINITION. The host's accesses over the register bus in every mode (20_memory.md R56 to R60), and
the issue or refusal of a command (30_encoding.md R81, R88), and the moves while the pin `rst_n` is low
(70_reset_and_hazards.md R230). -/
namespace Sys2Proof.Machine

/-- The byte a register holds (20_memory.md R51, R56, R60). -/
def regByte (s : State) : Reg → Byte
  | .state n => s.S.get n
  | .cmd => s.top
  | .status => s.status
  | .cfg => s.cfg
  | .fcause => s.fcause
  | .estep => s.estep
  | .eindex => s.eindex
  | .failmask high => maskByte s.failmask high
  | .lastcorr high => maskByte s.lastcorr high
  | .unrecmask high => maskByte s.unrecmask high
  | .pcode j => packByte s.pcode j
  | .lastdiff j => packByte s.lastdiff j
  | .rk a => Memory.read s.rk a
  | .reserved => 0x00

/-- A command word written to CMD in mode IDLE: accepted if it is a command of this instance (R81),
else refused with CMDERR (30_encoding.md R88). -/
def issueCommand (w : Byte) (s : State) : State :=
  match decode s.variant w with
  | .instr _ => acceptCommand w s
  | .illegal _ => setCmderr s

/-- A write in mode IDLE (20_memory.md R57): STATE, RK and CMD take it; read-only and reserved
addresses ignore it. -/
def writeReg (s : State) (v : Byte) : Reg → State
  | .state n => { s with S := s.S.set n v }
  | .rk a => { s with rk := Memory.write s.rk a v }
  | .cmd => issueCommand v s
  | .status => s
  | .cfg => s
  | .fcause => s
  | .estep => s
  | .eindex => s
  | .failmask _ => s
  | .lastcorr _ => s
  | .unrecmask _ => s
  | .pcode _ => s
  | .lastdiff _ => s
  | .reserved => s

/-- `RegWrite(addr, v)` (R57, R58, R59). -/
def hostWrite (addr : BitVec 10) (v : Byte) (s : State) : State :=
  match s.mode with
  | .idle => writeReg s v (regAt s.variant addr)
  | .run => setCmderr s
  | .fault => s

/-- A read in mode RUN (R58): STATUS as it is, any other address a free byte (assumption 4). -/
def busyRead (s : State) (r : Reg) : State :=
  if r = .status then { s with rdata := s.status }
  else { s with rdata := Config.freeByte s.free, free := s.free + 1 }

/-- `RegRead(addr)`, the byte on the pin `rdata` (R56, R58, R59). -/
def hostRead (addr : BitVec 10) (s : State) : State :=
  match s.mode with
  | .idle => { s with rdata := regByte s (regAt s.variant addr) }
  | .run => busyRead s (regAt s.variant addr)
  | .fault => { s with rdata := regByte s (regAt s.variant addr) }

/-- A move that applies reset, or that comes while the pin `rst_n` is low
(70_reset_and_hazards.md R230): it leaves the block in the reset state (10_state.md R36). A write and a
CORE step are without effect, a read returns what the addressed register holds in that state, and the
rising edge ends the reset (assumption 3). -/
def moveInReset (m : Move) (s : State) : State :=
  match m with
  | .write _ _ => resetEvent s
  | .read addr => hostRead addr (resetEvent s)
  | .core _ => resetEvent s
  | .rstFall => { resetEvent s with rstLow := true }
  | .rstRise => { resetEvent s with rstLow := false }

/-- The next move of the agenda while the pin `rst_n` is low; with none pending, the block stays in the
reset state (R230). -/
def stepInReset (s : State) : State :=
  match s.agenda with
  | [] => resetEvent s
  | m :: rest => moveInReset m { s with agenda := rest }

end Sys2Proof.Machine
end

