-- ==== Sys2Proof/Machine/Codec.lean ====
section
/-! DEFINITION. The Integrity Codec and the SEED micro-operation (40_codec.md). -/
namespace Sys2Proof.Machine

/-- `ENCODE(x)`, the 4-bit integrity code of a byte (40_codec.md R100). -/
def codeOf (x : Byte) : Nibble :=
  let b (k : Nat) : Bool := x.getLsbD k
  let bit0 := b 3 ^^ b 2 ^^ b 1 ^^ b 0
  let bit1 := b 6 ^^ b 5 ^^ b 4 ^^ b 0
  let bit2 := b 7 ^^ b 5 ^^ b 4 ^^ b 2 ^^ b 1
  let bit3 := b 7 ^^ b 6 ^^ b 4 ^^ b 3 ^^ b 1
  BitVec.ofBool bit3 ++ BitVec.ofBool bit2 ++ BitVec.ofBool bit1 ++ BitVec.ofBool bit0

/-- The codes of all 16 bytes of a State. -/
def codes (S : Lanes Byte) : Lanes Nibble := S.map codeOf

/-- SEED: PredictedCode derived from State (R102). -/
def microSeed (s : State) : MicroResult := .ok { s with pcode := codes s.S }

end Sys2Proof.Machine
end

