-- ==== Sys2Proof/Machine/Transforms.lean ====
section
/-! DEFINITION. The constant tables, the arithmetic of GF(2^8) and the round transforms with their
inverses, and the unguarded micro-operations ISHR, ISUB and IMIX (41_transforms.md). -/
namespace Sys2Proof.Machine

/-! ## Arithmetic -/

/-- `xtime(x)`, the doubling primitive (41_transforms.md R116). -/
def xtime (x : Byte) : Byte := (x <<< 1) ^^^ (if x.getLsbD 7 then 0x1B else 0x00)

/-- The loop of `gmul` from bit `i` of `b` on, for `n` more bits (R115). -/
def gmulFrom : Nat → Nat → Byte → Byte → Byte → Byte
  | 0, _, _, _, r => r
  | n + 1, i, a, b, r => gmulFrom n (i + 1) (xtime a) b (if b.getLsbD i then r ^^^ a else r)

/-- `gmul(a, b)`, multiplication in GF(2^8) (R115). -/
def gmul (a b : Byte) : Byte := gmulFrom 8 0 a b 0x00

/-! ## Tables, one literal per printed row, the entry of column 0 first -/

/-- The byte in column `lo` of a printed row of 16 bytes. -/
def rowByte (row lo : Nat) : Byte := BitVec.ofNat 8 (row >>> (8 * (15 - lo)))

/-- The rows of `SBOX` (R111). -/
def sboxRows : List Nat :=
  [0x637c777bf26b6fc53001672bfed7ab76,
    0xca82c97dfa5947f0add4a2af9ca472c0,
    0xb7fd9326363ff7cc34a5e5f171d83115,
    0x04c723c31896059a071280e2eb27b275] ++
   [0x09832c1a1b6e5aa0523bd6b329e32f84,
    0x53d100ed20fcb15b6acbbe394a4c58cf,
    0xd0efaafb434d338545f9027f503c9fa8,
    0x51a3408f929d38f5bcb6da2110fff3d2] ++
   [0xcd0c13ec5f974417c4a77e3d645d1973,
    0x60814fdc222a908846eeb814de5e0bdb,
    0xe0323a0a4906245cc2d3ac629195e479,
    0xe7c8376d8dd54ea96c56f4ea657aae08] ++
   [0xba78252e1ca6b4c6e8dd741f4bbd8b8a,
    0x703eb5664803f60e613557b986c11d9e,
    0xe1f8981169d98e949b1e87e9ce5528df,
    0x8ca1890dbfe6426841992d0fb054bb16]

/-- The rows of `INVSBOX` (R121). -/
def invSboxRows : List Nat :=
  [0x52096ad53036a538bf40a39e81f3d7fb,
    0x7ce339829b2fff87348e4344c4dee9cb,
    0x547b9432a6c2233dee4c950b42fac34e,
    0x082ea16628d924b2765ba2496d8bd125] ++
   [0x72f8f66486689816d4a45ccc5d65b692,
    0x6c704850fdedb9da5e154657a78d9d84,
    0x90d8ab008cbcd30af7e45805b8b34506,
    0xd02c1e8fca3f0f02c1afbd0301138a6b] ++
   [0x3a9111414f67dcea97f2cfcef0b4e673,
    0x96ac7422e7ad3585e2f937e81c75df6e,
    0x47f11a711d29c5896fb7620eaa18be1b,
    0xfc563e4bc6d279209adbc0fe78cd5af4] ++
   [0x1fdda8338807c731b11210592780ec5f,
    0x60517fa919b54a0d2de57a9f93c99cef,
    0xa0e03b4dae2af5b0c8ebbb3c83539961,
    0x172b047eba77d626e169146355210c7d]

/-- `SBOX[x]` (R111). -/
def sbox (x : Byte) : Byte := rowByte (sboxRows.getD (x.toNat / 16) 0) (x.toNat % 16)

/-- `INVSBOX[x]` (R121). -/
def invSbox (x : Byte) : Byte := rowByte (invSboxRows.getD (x.toNat / 16) 0) (x.toNat % 16)

/-! ## The forward transforms -/

/-- `SubBytes` (R112). -/
def subBytes (S : Lanes Byte) : Lanes Byte := S.map sbox

/-- `ShiftRows`, on bytes or on codes (R113, 42_prediction.md R131). -/
def shiftRows {α : Type} (S : Lanes α) : Lanes α := .build fun c r => S.entry ((c + r) % 4) r

/-- One column of `MixColumns` (R117). -/
def mixColumn (a : Col Byte) : Col Byte where
  r0 := gmul a.r0 2 ^^^ gmul a.r1 3 ^^^ a.r2 ^^^ a.r3
  r1 := a.r0 ^^^ gmul a.r1 2 ^^^ gmul a.r2 3 ^^^ a.r3
  r2 := a.r0 ^^^ a.r1 ^^^ gmul a.r2 2 ^^^ gmul a.r3 3
  r3 := gmul a.r0 3 ^^^ a.r1 ^^^ a.r2 ^^^ gmul a.r3 2

/-- `MixColumns` (R117). -/
def mixColumns (S : Lanes Byte) : Lanes Byte := S.mapCol mixColumn

/-- `AddRoundKey(S, k)` (R118). -/
def addRoundKey (rk : Memory) (k : Nat) (S : Lanes Byte) : Lanes Byte := S.xor (roundKey rk k)

/-! ## The inverse transforms -/

/-- `InvSubBytes` (R120, R121). -/
def invSubBytes (S : Lanes Byte) : Lanes Byte := S.map invSbox

/-- `InvShiftRows`; `(c - r) mod 4` with a non-negative result is `(c + 4 - r) mod 4` (R110, R122). -/
def invShiftRows {α : Type} (S : Lanes α) : Lanes α := .build fun c r => S.entry ((c + 4 - r) % 4) r

/-- One column of `InvMixColumns` (R123). -/
def invMixColumn (a : Col Byte) : Col Byte where
  r0 := gmul a.r0 0x0E ^^^ gmul a.r1 0x0B ^^^ gmul a.r2 0x0D ^^^ gmul a.r3 0x09
  r1 := gmul a.r0 0x09 ^^^ gmul a.r1 0x0E ^^^ gmul a.r2 0x0B ^^^ gmul a.r3 0x0D
  r2 := gmul a.r0 0x0D ^^^ gmul a.r1 0x09 ^^^ gmul a.r2 0x0E ^^^ gmul a.r3 0x0B
  r3 := gmul a.r0 0x0B ^^^ gmul a.r1 0x0D ^^^ gmul a.r2 0x09 ^^^ gmul a.r3 0x0E

/-- `InvMixColumns` (R123). -/
def invMixColumns (S : Lanes Byte) : Lanes Byte := S.mapCol invMixColumn

/-! ## The unguarded micro-operations: no PCODE, no comparison, no injection point (R120) -/

/-- ISHR (R124). -/
def microIshr (s : State) : MicroResult := .ok { s with S := invShiftRows s.S }

/-- ISUB (R125). -/
def microIsub (s : State) : MicroResult := .ok { s with S := invSubBytes s.S }

/-- IMIX (R126). -/
def microImix (s : State) : MicroResult := .ok { s with S := invMixColumns s.S }

end Sys2Proof.Machine
end

