-- ==== Sys2Proof/Machine/Predict.lean ====
section
/-! DEFINITION. The Prediction Engine: the four predictors, each a function of the State before the
transform and of the old PCODE (42_prediction.md R135). -/
namespace Sys2Proof.Machine

/-- The entry in column `lo` of a printed row of 16 nibbles. -/
def rowNibble (row lo : Nat) : Nibble := BitVec.ofNat 4 (row >>> (4 * (15 - lo)))

/-- The rows of `SBOXHAM` (42_prediction.md R134). -/
def sboxHamRows : List Nat :=
  [0x2e953be08371f3da,
    0x21cdae1e5d78eff6,
    0xf1ce0a5adc6d11b8,
    0x5d887a66b3cd7d94] ++
   [0xa2aa9d0a9f0ace49,
    0xab0f62738152e6d4,
    0x82e9456ac4d04403,
    0x74aefd188cc5ec05] ++
   [0x9c0c69f531379b4c,
    0xcf84b22521db957f,
    0x05c40838b6611458,
    0xbf333eb00cb4a6b9] ++
   [0x0b07221e977cdbb8,
    0x29243e61fefe4513,
    0x37bd62d75f7a72fa,
    0x096f687598924136]

/-- `SBOXHAM[x]`, the code of the S-box image, by lookup (R134). -/
def sboxHam (x : Byte) : Nibble := rowNibble (sboxHamRows.getD (x.toNat / 16) 0) (x.toNat % 16)

/-- `PredictSub`: reads State, discards the old PCODE (R130). -/
def predictSub (S : Lanes Byte) (_pcode : Lanes Nibble) : Lanes Nibble := S.map sboxHam

/-- `PredictShift`: permutes the old PCODE, does not read State (R131). -/
def predictShift (_S : Lanes Byte) (pcode : Lanes Nibble) : Lanes Nibble := shiftRows pcode

/-- `PredictMix`: encodes a second copy of MixColumns, discards the old PCODE (R132). -/
def predictMix (S : Lanes Byte) (_pcode : Lanes Nibble) : Lanes Nibble := codes (mixColumns S)

/-- `PredictArk(k)`: XORs the round key's codes into the old PCODE, does not read State (R133). -/
def predictArk (rk : Memory) (k : Nat) (_S : Lanes Byte) (pcode : Lanes Nibble) : Lanes Nibble :=
  pcode.xor (codes (roundKey rk k))

end Sys2Proof.Machine
end

