-- ==== Sys2Proof/Machine/Verify.lean ====
section
/-! DEFINITION. Verification, the syndrome decoder and the bit-flip corrector (43_verify_correct.md). -/
namespace Sys2Proof.Machine

/-- `Z`: the positions of the zero bits of a syndrome, in the order 3, 2, 1, 0
(43_verify_correct.md R142). -/
def zeroPositions (d : Nibble) : List Nat := [3, 2, 1, 0].filter fun k => !d.getLsbD k

/-- The table from `(pone, ptwo)` to the flipped data bit, matched on the whole of `Z` (R142, R143,
90_conflicts.md C2). -/
def syndromeTable : List Nat → Option Nat
  | [3, 2] => some 0
  | [3, 1] => some 2
  | [3, 0] => some 5
  | [2, 1] => some 3
  | [2, 0] => some 6
  | [1, 0] => some 7
  | [1] => some 1
  | [0] => some 4
  | _ => none

/-- `SYNDEC(d)`: the data bit a syndrome locates, if it is in the table (R144). -/
def synDec (d : Nibble) : Option Nat := syndromeTable (zeroPositions d)

/-- The byte with the located bit flipped, unchanged when there is none (R145). -/
def correctByte (b : Byte) (d : Nibble) : Byte :=
  match synDec d with
  | some k => b ^^^ (1#8 <<< k)
  | none => b

/-- `diff`: ObservedCode against PredictedCode, byte by byte (R140, R141). -/
def syndromes (S : Lanes Byte) (pcode : Lanes Nibble) : Lanes Nibble := (codes S).xor pcode

/-- The lanes with a nonzero syndrome that is in the table: `corr` (R145). -/
def matchedLanes (diff : Lanes Nibble) : Lanes Bool := diff.map fun d => d != 0 && (synDec d).isSome

/-- The lanes with a nonzero syndrome outside the table: `unrec` (R145). -/
def unmatchedLanes (diff : Lanes Nibble) : Lanes Bool := diff.map fun d => d != 0 && (synDec d).isNone

/-- `diff2`, the syndromes of the re-check: of the corrected State, or the stale ones (R146). -/
def recheckSyndromes (r : Recheck) (diff : Lanes Nibble) (corrected : Lanes Byte)
    (pcode : Lanes Nibble) : Lanes Nibble :=
  match r with
  | .refresh => syndromes corrected pcode
  | .stale => diff

/-- `VerifyCorrect(op_word)` (R150). -/
def verifyCorrect (opWord : Byte) (s : State) : MicroResult :=
  let diff := syndromes s.S s.pcode
  let corr := maskOf (matchedLanes diff)
  let unrec := maskOf (unmatchedLanes diff)
  let corrected := Lanes.zipWith correctByte s.S diff
  let fail := maskOf ((recheckSyndromes s.recheck diff corrected s.pcode).map (· != 0))
  let s1 := { s with S := corrected }
  let s2 := if corr ||| unrec = 0 then s1 else recordEvent opWord diff corr unrec s1
  if fail = 0 then .ok s2 else .raised (raiseFault fail corr unrec s2)

end Sys2Proof.Machine
end

