-- ==== Sys2Proof/Machine/Guarded.lean ====
section
/-! DEFINITION. The shape of every guarded step and the guarded micro-operations GSUB, GSHR, GMIX and
GARK (44_guarded_ops.md). -/
namespace Sys2Proof.Machine

/-- `GuardedStep(op_word, Predict, Transform, seu)` up to its sixth phase: the prediction, injection
point A, the transform, injection points B and C (44_guarded_ops.md R160). -/
def guardedPhases (predict : Lanes Byte → Lanes Nibble → Lanes Nibble)
    (transform : Lanes Byte → Lanes Byte) (s : State) : State :=
  { s with
    S := (transform (s.S.xor s.seu.a)).xor s.seu.b
    pcode := (predict s.S s.pcode).xor s.seu.c }

/-- `GuardedStep(op_word, Predict, Transform, seu)` (R160). -/
def guardedStep (opWord : Byte) (predict : Lanes Byte → Lanes Nibble → Lanes Nibble)
    (transform : Lanes Byte → Lanes Byte) (s : State) : MicroResult :=
  verifyCorrect opWord (guardedPhases predict transform s)

/-- GSUB (R161). -/
def microGsub (s : State) : MicroResult := guardedStep 0x20 predictSub subBytes s

/-- GSHR (R162). -/
def microGshr (s : State) : MicroResult := guardedStep 0x30 predictShift shiftRows s

/-- GMIX (R163). -/
def microGmix (s : State) : MicroResult := guardedStep 0x40 predictMix mixColumns s

/-- GARK k (R164). -/
def microGark (k : BitVec 4) (s : State) : MicroResult :=
  guardedStep (0x50 + k.setWidth 8) (predictArk s.rk k.toNat) (addRoundKey s.rk k.toNat) s

end Sys2Proof.Machine
end

