-- ==== Sys2Proof/Machine/System.lean ====
section
/-! DEFINITION. The system operations of NOP and CLRSTAT (46_system.md). -/
namespace Sys2Proof.Machine

/-- NOP: one sequencer step that changes no data state (46_system.md R190). -/
def microNop (s : State) : MicroResult := .ok s

/-- CLRSTAT: the sticky flags and the event record cleared (R191). -/
def microClrstat (s : State) : MicroResult := .ok (clearStatus s)

end Sys2Proof.Machine
end

