-- ==== Sys2Proof/Machine/Driver.lean ====
section
/-! DEFINITION. The Cipher Driver: the micro-operation lists of ENC and DEC and the sequencer's step
(45_driver.md). -/
namespace Sys2Proof.Machine

/-- What the sequencer executes in one step: a micro-operation, or the system operation of NOP or
CLRSTAT (45_driver.md R175). -/
inductive MicroOp
  | nop
  | seed
  | gsub
  | gshr
  | gmix
  | gark (k : BitVec 4)
  | ishr
  | isub
  | imix
  | clrstat
deriving DecidableEq, Repr

/-- The command that issues a micro-operation alone; its word names the micro-operation in a list
(30_encoding.md R83). -/
def MicroOp.instr : MicroOp → Instr
  | .nop => .nop
  | .seed => .seed
  | .gsub => .gsub
  | .gshr => .gshr
  | .gmix => .gmix
  | .gark k => .gark k
  | .ishr => .ishr
  | .isub => .isub
  | .imix => .imix
  | .clrstat => .clrstat

/-- Executing one micro-operation (R175). -/
def micro : MicroOp → State → MicroResult
  | .nop, s => microNop s
  | .seed, s => microSeed s
  | .gsub, s => microGsub s
  | .gshr, s => microGshr s
  | .gmix, s => microGmix s
  | .gark k, s => microGark k s
  | .ishr, s => microIshr s
  | .isub, s => microIsub s
  | .imix, s => microImix s
  | .clrstat, s => microClrstat s

/-- GARK with a round number of a list. -/
def gark (k : Nat) : MicroOp := .gark (BitVec.ofNat 4 k)

/-- `Round[k]` of an encryption, `1 <= k <= Nr-1` (R172). -/
def encRound (k : Nat) : List MicroOp := [.gsub, .gshr, .gmix, gark k]

/-- `[ISHR, ISUB, SEED, GARK k, IMIX]`, round `k` of a decryption, `Nr-1 >= k >= 1` (R173). -/
def decRound (k : Nat) : List MicroOp := [.ishr, .isub, .seed, gark k, .imix]

/-- The rounds `k = 1 .. n` of an encryption, in ascending order (R172). -/
def encRounds : Nat → List MicroOp
  | 0 => []
  | n + 1 => encRounds n ++ encRound (n + 1)

/-- The rounds `k = n .. 1` of a decryption, in descending order (R173). -/
def decRounds : Nat → List MicroOp
  | 0 => []
  | n + 1 => decRound (n + 1) ++ decRounds n

/-- `EncProg` (R172). -/
def encProg (v : Variant) : List MicroOp :=
  [.seed, gark 0] ++ encRounds (v.nr - 1) ++ [.gsub, .gshr, gark v.nr]

/-- `DecProg` (R173). -/
def decProg (v : Variant) : List MicroOp :=
  [.seed, gark v.nr] ++ decRounds (v.nr - 1) ++ [.ishr, .isub, .seed, gark 0]

/-- The micro-operation list of a command on an instance of variant `v` (R175). -/
def microList (v : Variant) : Instr → List MicroOp
  | .nop => [.nop]
  | .seed => [.seed]
  | .gsub => [.gsub]
  | .gshr => [.gshr]
  | .gmix => [.gmix]
  | .gark k => [.gark k]
  | .ishr => [.ishr]
  | .isub => [.isub]
  | .imix => [.imix]
  | .enc => encProg v
  | .dec => decProg v
  | .clrstat => [.clrstat]

/-- The sequencer after a micro-operation of a list of length `len`: to FAULT with `idx` unchanged, to
IDLE at the end of the list, else to the next entry (R175). -/
def advance (len : Nat) : MicroResult → State
  | .raised s => s
  | .ok s => if s.idx.toNat + 1 = len then complete s else { s with idx := s.idx + 1 }

/-- One sequencer step of a command whose micro-operation list is `L` (R175). -/
def runList (L : List MicroOp) (s : State) : Host.Outcome State Fault Refusal :=
  match L[s.idx.toNat]? with
  | some m => .next (advance L.length (micro m s))
  | none => .fault .idxPastEnd

end Sys2Proof.Machine
end

