-- ==== Sys2Proof/Machine/Commands.lean ====
section
/-! DEFINITION. The meaning of each command: one sequencer step of the running command (45_driver.md
R175, assumption 9). A directly issued micro-operation, NOP and CLRSTAT are one-element lists; ENC and
DEC are `EncProg` and `DecProg`. -/
namespace Sys2Proof.Machine

/-- NOP (46_system.md R190). -/
def execNop (s : State) : Host.Outcome State Fault Refusal := runList [.nop] s

/-- SEED (40_codec.md R102). -/
def execSeed (s : State) : Host.Outcome State Fault Refusal := runList [.seed] s

/-- GSUB (44_guarded_ops.md R161). -/
def execGsub (s : State) : Host.Outcome State Fault Refusal := runList [.gsub] s

/-- GSHR (44_guarded_ops.md R162). -/
def execGshr (s : State) : Host.Outcome State Fault Refusal := runList [.gshr] s

/-- GMIX (44_guarded_ops.md R163). -/
def execGmix (s : State) : Host.Outcome State Fault Refusal := runList [.gmix] s

/-- GARK k (44_guarded_ops.md R164). -/
def execGark (k : BitVec 4) (s : State) : Host.Outcome State Fault Refusal := runList [.gark k] s

/-- ISHR (41_transforms.md R124). -/
def execIshr (s : State) : Host.Outcome State Fault Refusal := runList [.ishr] s

/-- ISUB (41_transforms.md R125). -/
def execIsub (s : State) : Host.Outcome State Fault Refusal := runList [.isub] s

/-- IMIX (41_transforms.md R126). -/
def execImix (s : State) : Host.Outcome State Fault Refusal := runList [.imix] s

/-- ENC (45_driver.md R170). -/
def execEnc (s : State) : Host.Outcome State Fault Refusal := runList (encProg s.variant) s

/-- DEC (45_driver.md R171). -/
def execDec (s : State) : Host.Outcome State Fault Refusal := runList (decProg s.variant) s

/-- CLRSTAT (46_system.md R191). -/
def execClrstat (s : State) : Host.Outcome State Fault Refusal := runList [.clrstat] s

end Sys2Proof.Machine
end

