-- ==== Sys2Proof/Machine/Dispatch.lean ====
section
/-! DEFINITION. Dispatch: one arm per constructor of `Instr`, each a direct call of its meaning. -/
namespace Sys2Proof.Machine

/-- One sequencer step of the command `i` (45_driver.md R175). -/
def exec (i : Instr) (s : State) : Host.Outcome State Fault Refusal :=
  match i with
  | .nop => Sys2Proof.Machine.execNop s
  | .seed => Sys2Proof.Machine.execSeed s
  | .gsub => Sys2Proof.Machine.execGsub s
  | .gshr => Sys2Proof.Machine.execGshr s
  | .gmix => Sys2Proof.Machine.execGmix s
  | .gark k => Sys2Proof.Machine.execGark k s
  | .ishr => Sys2Proof.Machine.execIshr s
  | .isub => Sys2Proof.Machine.execIsub s
  | .imix => Sys2Proof.Machine.execImix s
  | .enc => Sys2Proof.Machine.execEnc s
  | .dec => Sys2Proof.Machine.execDec s
  | .clrstat => Sys2Proof.Machine.execClrstat s

end Sys2Proof.Machine
end

