-- ==== Sys2Proof/Machine/Step.lean ====
section
/-! DEFINITION. One step of the machine: the next move of the agenda, or, when no move is pending, the
CORE's own step without an upset (assumptions 5 and 6). -/
namespace Sys2Proof.Machine

/-- The CORE's step (45_driver.md R175) with the environment's masks: the accepted word `SEQ.top` is
decoded and one sequencer step of that command is run. Only mode RUN has one (R175, 60_exceptions.md
R207); otherwise the CORE waits (assumption 6). -/
def coreStep (seu : Seu) (s : State) : Host.Outcome State Fault Refusal :=
  match s.mode with
  | .run =>
    match decode s.variant s.top with
    | .instr i => exec i { s with seu := seu }
    | .illegal _ => .fault .illegalTop
  | .idle => .next s
  | .fault => .next s

/-- One move of one agent (20_memory.md R64) while the pin `rst_n` is high. Its falling edge applies
reset in any mode (70_reset_and_hazards.md R230); a rising edge of a pin that is high changes nothing
(assumption 3). -/
def stepRunning (s : State) : Host.Outcome State Fault Refusal :=
  match s.agenda with
  | [] => coreStep .none s
  | .core seu :: rest => coreStep seu { s with agenda := rest }
  | .write addr v :: rest => .next (hostWrite addr v { s with agenda := rest })
  | .read addr :: rest => .next (hostRead addr { s with agenda := rest })
  | .rstFall :: rest => .next (moveInReset .rstFall { s with agenda := rest })
  | .rstRise :: rest => .next { s with agenda := rest }

/-- One step: while the pin `rst_n` is low the block is held in the reset state (R230). -/
def step (s : State) : Host.Outcome State Fault Refusal :=
  if s.rstLow then .next (stepInReset s) else stepRunning s

/-- The state in which the host has just had the word of `nbits` bits accepted as a command
(30_encoding.md R81), with `rst_n` high and a CORE step without an upset as the next move
(assumption 10). -/
def State.withFetchWord (s : State) (nbits w : Nat) : State :=
  { acceptCommand (BitVec.ofNat 8 (w % 2 ^ nbits)) s with
    rstLow := false
    agenda := .core .none :: s.agenda }

end Sys2Proof.Machine
end

