-- ==== Sys2Proof/Machine/HostProgram.lean ====
section
/-! DEFINITION. The host's side, none of it behaviour of the CORE: test-program lines as moves
(30_encoding.md R90), the pseudo-instructions (R91) and the recipe that fills RK (10_state.md R33). -/
namespace Sys2Proof.Machine

/-! ## Test-program lines (R90) -/

/-- A register address as the 10 bits of the bus (20_memory.md R50). -/
def busAddr (a : Nat) : BitVec 10 := BitVec.ofNat 10 a

/-- `WRBLK addr, hex`: consecutive writes, the first byte at `addr`. -/
def writeBlock : Nat → List Byte → List Move
  | _, [] => []
  | a, b :: bs => .write (busAddr a) b :: writeBlock (a + 1) bs

/-- `RDBLK addr, len`: `len` consecutive reads. -/
def readBlock : Nat → Nat → List Move
  | _, 0 => []
  | a, n + 1 => .read (busAddr a) :: readBlock (a + 1) n

/-- `<MNEMONIC>`: the command's word written to CMD. -/
def issue (i : Instr) : Move := .write (busAddr 0x010) (encode i)

/-- A command line and its `WAIT`, with the masks of the command's steps (`SEU@i.P` lines). -/
def issueWith (i : Instr) (masks : List Seu) : List Move := issue i :: masks.map .core

/-- A command line and its `WAIT`, without an upset. -/
def issueWait (v : Variant) (i : Instr) : List Move :=
  issueWith i (List.replicate (microList v i).length .none)

/-- `<reset: rst_n low, then high>` (95_test_vectors.md, program P4; 70_reset_and_hazards.md R232). -/
def resetPulse : List Move := [.rstFall, .rstRise]

/-! ## Pseudo-instructions (R91) -/

/-- GARK with a round number. -/
def garkInstr (k : Nat) : Instr := .gark (BitVec.ofNat 4 k)

/-- `INIT`. -/
def pseudoInit : List Instr := [.seed, garkInstr 0]

/-- `ROUND k`. -/
def pseudoRound (k : Nat) : List Instr := [.gsub, .gshr, .gmix, garkInstr k]

/-- `FINAL`. -/
def pseudoFinal (v : Variant) : List Instr := [.gsub, .gshr, garkInstr v.nr]

/-- `DINIT`. -/
def pseudoDinit (v : Variant) : List Instr := [.seed, garkInstr v.nr]

/-- `DROUND k`. -/
def pseudoDround (k : Nat) : List Instr := [.ishr, .isub, .seed, garkInstr k, .imix]

/-- `DFINAL`. -/
def pseudoDfinal : List Instr := [.ishr, .isub, .seed, garkInstr 0]

/-- `ROUND k; ROUND k+1; …`, `n` rounds. -/
def pseudoRoundsFrom : Nat → Nat → List Instr
  | _, 0 => []
  | k, n + 1 => pseudoRound k ++ pseudoRoundsFrom (k + 1) n

/-- `DROUND k; DROUND k-1; …; DROUND 1`. -/
def pseudoDroundsDown : Nat → List Instr
  | 0 => []
  | k + 1 => pseudoDround (k + 1) ++ pseudoDroundsDown k

/-- `INIT; ROUND 1; …; ROUND Nr-1; FINAL`. -/
def pseudoEncrypt (v : Variant) : List Instr :=
  pseudoInit ++ pseudoRoundsFrom 1 (v.nr - 1) ++ pseudoFinal v

/-- `DINIT; DROUND Nr-1; …; DROUND 1; DFINAL`. -/
def pseudoDecrypt (v : Variant) : List Instr :=
  pseudoDinit v ++ pseudoDroundsDown (v.nr - 1) ++ pseudoDfinal

/-! ## The host's recipe for RK (10_state.md R33) -/

/-- `SBOX` on every byte of a word. -/
def subWord (t : Col Byte) : Col Byte := t.map sbox

/-- A word rotated left by one byte. -/
def rotWord (t : Col Byte) : Col Byte := ⟨t.r1, t.r2, t.r3, t.r0⟩

/-- The words `w[i], w[i+1], …` of the expansion, `n` of them; `prev` holds `w[i-1], w[i-2], …`. -/
def expandFrom (nk : Nat) : Nat → Nat → List (Col Byte) → Byte → List (Col Byte)
  | 0, _, _, _ => []
  | n + 1, i, prev, rcon =>
    let last := prev.getD 0 (.fill 0)
    let (t, rcon') :=
      if i % nk = 0 then
        let u := subWord (rotWord last)
        ({ u with r0 := u.r0 ^^^ rcon }, xtime rcon)
      else if 6 < nk ∧ i % nk = 4 then (subWord last, rcon)
      else (last, rcon)
    let w := Col.zipWith (· ^^^ ·) (prev.getD (nk - 1) (.fill 0)) t
    w :: expandFrom nk n (i + 1) (w :: prev) rcon'

/-- The words of the cipher key, 4 bytes each. -/
def keyWords : List Byte → List (Col Byte)
  | a :: b :: c :: d :: bs => ⟨a, b, c, d⟩ :: keyWords bs
  | _ => []

/-- The bytes of RK for a cipher key, `RK[4*i + j] = w[i][j]`. -/
def expandKey (v : Variant) (key : List Byte) : List Byte :=
  let ws := keyWords key
  (ws ++ expandFrom v.nk (4 * (v.nr + 1) - v.nk) v.nk ws.reverse 0x01).flatMap Col.toList

/-- `LOADKEY`: the writes that fill RK, `init(key)` (10_state.md R32, 70_reset_and_hazards.md R232). -/
def loadKey (v : Variant) (key : List Byte) : List Move := writeBlock 0x100 (expandKey v key)

end Sys2Proof.Machine
end

