-- ==== Sys2Proof/Safety.lean ====
section
/-! DEFINITION. The terms claims about the machine use: the invariant of every run, when PredictedCode
describes State, which upsets an environment makes, and the AES cipher as a function. -/
namespace Sys2Proof.Machine

/-! ## PredictedCode and upsets -/

/-- PredictedCode describes State: `PCODE[n] = ENCODE(S[n])` for every `n` (42_prediction.md R136). -/
def Synced (s : State) : Prop := ∀ n, s.pcode.get n = codeOf (s.S.get n)

/-- A byte mask that flips no bit or exactly one. -/
def AtMostOneBit (m : Byte) : Prop := m = 0 ∨ ∃ k : Fin 8, m = 1#8 <<< k.val

/-- Upsets at injection point B only, at most one bit of each State byte (43_verify_correct.md R149
(c), 70_reset_and_hazards.md R243). -/
def SingleBitAtB (u : Seu) : Prop :=
  u.a = .fill 0 ∧ (∀ n, AtMostOneBit (u.b.get n)) ∧ u.c = .fill 0

/-- Upsets at injection point A only, at most one bit of each State byte. -/
def SingleBitAtA (u : Seu) : Prop :=
  (∀ n, AtMostOneBit (u.a.get n)) ∧ u.b = .fill 0 ∧ u.c = .fill 0

/-- The syndromes no single flipped data bit produces: `UnrecognizedSyndrome` (43_verify_correct.md
R144). -/
def unrecognized (d : Nibble) : Bool :=
  d == 0x1 || d == 0x2 || d == 0x4 || d == 0x7 || d == 0x8 || d == 0xB || d == 0xF

/-! ## The guarded micro-operations, taken together -/

/-- The transform of a guarded micro-operation (44_guarded_ops.md R161 to R164). -/
def guardedTransform (rk : Memory) : Instr → Option (Lanes Byte → Lanes Byte)
  | .nop => none
  | .seed => none
  | .gsub => some subBytes
  | .gshr => some shiftRows
  | .gmix => some mixColumns
  | .gark k => some (addRoundKey rk k.toNat)
  | .ishr => none
  | .isub => none
  | .imix => none
  | .enc => none
  | .dec => none
  | .clrstat => none

/-- The guarded micro-operations whose prediction reads the old PCODE: GSHR and GARK
(70_reset_and_hazards.md R241). -/
def readsPcode : Instr → Bool
  | .nop => false
  | .seed => false
  | .gsub => false
  | .gshr => true
  | .gmix => false
  | .gark _ => true
  | .ishr => false
  | .isub => false
  | .imix => false
  | .enc => false
  | .dec => false
  | .clrstat => false

/-- PredictedCode of a guarded micro-operation as its rule describes it: of GSUB and GMIX the codes of
the transformed State, of GSHR the old PCODE moved with its bytes, of GARK the old PCODE with the codes of
the round key added (42_prediction.md R130 to R133). -/
def predictedCode (s : State) : MicroOp → Lanes Nibble
  | .nop => s.pcode
  | .seed => s.pcode
  | .gsub => codes (subBytes s.S)
  | .gshr => shiftRows s.pcode
  | .gmix => codes (mixColumns s.S)
  | .gark k => s.pcode.xor (codes (roundKey s.rk k.toNat))
  | .ishr => s.pcode
  | .isub => s.pcode
  | .imix => s.pcode
  | .clrstat => s.pcode

/-- The syndrome of byte `n`, were State and PCODE compared as they stand (43_verify_correct.md R141). -/
def syndromeAt (s : State) (n : Fin 16) : Nibble := codeOf (s.S.get n) ^^^ s.pcode.get n

/-- The effect of each micro-operation when no upset occurs and PCODE describes State
(44_guarded_ops.md R166, 40_codec.md R102, 41_transforms.md R124 to R126, 46_system.md R190, R191). -/
def faultFree (s : State) : MicroOp → State
  | .nop => s
  | .seed => { s with pcode := codes s.S }
  | .gsub => { s with S := subBytes s.S, pcode := codes (subBytes s.S) }
  | .gshr => { s with S := shiftRows s.S, pcode := codes (shiftRows s.S) }
  | .gmix => { s with S := mixColumns s.S, pcode := codes (mixColumns s.S) }
  | .gark k =>
    { s with
      S := addRoundKey s.rk k.toNat s.S
      pcode := codes (addRoundKey s.rk k.toNat s.S) }
  | .ishr => { s with S := invShiftRows s.S }
  | .isub => { s with S := invSubBytes s.S }
  | .imix => { s with S := invMixColumns s.S }
  | .clrstat => clearStatus s

/-- From `s` to `t` the sequencer went on past its entry, without a Fault: to IDLE with DONE at the end of
the command's list, else to the next entry (45_driver.md R175). -/
def WentOn (i : Instr) (s t : State) : Prop :=
  (s.idx.toNat + 1 = (microList s.variant i).length ∧ t.mode = .idle ∧ t.idx = 0 ∧ t.done = true) ∨
  (s.idx.toNat + 1 < (microList s.variant i).length ∧ t.mode = s.mode ∧
    t.idx.toNat = s.idx.toNat + 1 ∧ t.done = s.done)

/-- One sequencer step of a command went on with State `X` and PCODE its codes, and recorded no Fault. -/
def WentOnWith (i : Instr) (s : State) (X : Lanes Byte) : Prop :=
  ∃ t, exec i s = .next t ∧ WentOn i s t ∧ t.S = X ∧ t.pcode = codes X ∧
    t.failmask = s.failmask ∧ t.fcause = s.fcause

/-! ## Reset, and the invariant of every run -/

/-- The next step leaves the block in the reset state: the pin `rst_n` is low, or the next move makes it
so (70_reset_and_hazards.md R230). -/
def Resets (s : State) : Prop := s.rstLow = true ∨ ∃ rest, s.agenda = .rstFall :: rest

/-- What holds of the sequencer: the accepted word is a command of the instance (30_encoding.md R81),
and in mode RUN the position is inside its list (10_state.md R23). -/
structure SeqInv (s : State) : Prop where
  topLegal : ∃ i, decode s.variant s.top = .instr i
  idxInList : s.mode = .run → ∀ i, decode s.variant s.top = .instr i →
    s.idx.toNat < (microList s.variant i).length
  idleAtZero : s.mode = .idle → s.idx = 0
  doneIdle : s.done = true → s.mode = .idle

/-- What holds of the event and fault records (10_state.md R28 to R31, 43_verify_correct.md R149,
60_exceptions.md R201). -/
structure RecordInv (s : State) : Prop where
  masksDisjoint : s.lastcorr &&& s.unrecmask = 0
  masksCover : ∀ n : Fin 16,
    (s.lastcorr ||| s.unrecmask).getLsbD n.val = (s.lastdiff.get n != 0)
  noFault : s.mode ≠ .fault → s.failmask = 0 ∧ s.fcause = 0
  failRefresh : s.mode = .fault → s.recheck = .refresh → s.failmask = s.unrecmask
  failStale : s.mode = .fault → s.recheck = .stale → s.failmask = s.lastcorr ||| s.unrecmask
  failSome : s.mode = .fault → s.failmask ≠ 0
  causeOf : s.mode = .fault → s.fcause = fcauseOf s.failmask s.lastcorr s.unrecmask
  faultStep : s.mode = .fault → s.eindex = s.idx ∧
    ∀ i, decode s.variant s.top = .instr i →
      (microList s.variant i)[s.idx.toNat]?.map (fun m => encode m.instr) = some s.estep

/-- Control state, STATUS and records of the reset state (10_state.md R36). -/
structure InResetState (s : State) : Prop where
  mode : s.mode = .idle
  idx : s.idx = 0
  top : s.top = 0x00
  status : s.status = 0x00
  lastdiff : s.lastdiff = .fill 0
  lastcorr : s.lastcorr = 0
  unrecmask : s.unrecmask = 0
  estep : s.estep = 0
  eindex : s.eindex = 0
  failmask : s.failmask = 0
  fcause : s.fcause = 0

/-- What holds of RK: canonical form, and no cell outside the memory of the instance (10_state.md
R32). -/
structure RkInv (s : State) : Prop where
  canonical : Memory.wf s.rk
  inRange : ∀ c ∈ s.rk, c.1 < s.variant.rkBytes

/-- The invariant of every run; while `rst_n` is low the block is in the reset state
(70_reset_and_hazards.md R230). -/
structure Inv (s : State) : Prop where
  seq : SeqInv s
  records : RecordInv s
  rk : RkInv s
  heldInReset : s.rstLow = true → InResetState s

/-! ## The cipher -/

/-- The rounds `1 .. n` of AES encryption. -/
def cipherRounds (rk : Memory) : Nat → Lanes Byte → Lanes Byte
  | 0, S => S
  | n + 1, S => addRoundKey rk (n + 1) (mixColumns (shiftRows (subBytes (cipherRounds rk n S))))

/-- AES encryption of a block under the key whose expansion is in `rk` (45_driver.md R170). -/
def cipher (v : Variant) (rk : Memory) (S : Lanes Byte) : Lanes Byte :=
  addRoundKey rk v.nr (shiftRows (subBytes (cipherRounds rk (v.nr - 1) (addRoundKey rk 0 S))))

/-- The rounds `n .. 1` of AES decryption. -/
def invCipherRounds (rk : Memory) : Nat → Lanes Byte → Lanes Byte
  | 0, S => S
  | n + 1, S =>
    invCipherRounds rk n (invMixColumns (addRoundKey rk (n + 1) (invSubBytes (invShiftRows S))))

/-- AES decryption of a block (45_driver.md R171). -/
def invCipher (v : Variant) (rk : Memory) (S : Lanes Byte) : Lanes Byte :=
  addRoundKey rk 0
    (invSubBytes (invShiftRows (invCipherRounds rk (v.nr - 1) (addRoundKey rk v.nr S))))

end Sys2Proof.Machine
end

