-- ==== Sys2Proof/Certificates/Slice0/Obligations.lean ====
section
/-! DEFINITION. The statements for the provers. `S`, `PCODE` and the registers are those of
10_state.md; a rule is named R<n> as the spec numbers it. That a move of an agent is the head of
`agenda`, that the masks of a step stand in `seu` and that a read shows its byte on `rdata` are the
model's choices (assumptions 5 and 7), and so is a read's free byte while BUSY (assumption 4). The pin
`rst_n` is low where `rstLow` is true (assumption 3). -/

open Sys2Proof Sys2Proof.Machine

/-! ## Encoding -/

/-- Words written out from the table of R82 decode to their operations, and one word of each kind of
R86 is refused. The names of the three reasons are the model's choice (assumption 14): R86 gives the
words and no names. -/
def Obligations.DecodeWrittenWords : Prop :=
  ∀ v,
    decode v 0x00 = .instr .nop ∧ decode v 0x10 = .instr .seed ∧ decode v 0x20 = .instr .gsub ∧
    decode v 0x30 = .instr .gshr ∧ decode v 0x40 = .instr .gmix ∧
    decode v 0x50 = .instr (.gark 0) ∧ decode v 0x5A = .instr (.gark 10) ∧
    decode v 0x60 = .instr .ishr ∧ decode v 0x70 = .instr .isub ∧ decode v 0x80 = .instr .imix ∧
    decode v 0x90 = .instr .enc ∧ decode v 0xA0 = .instr .dec ∧ decode v 0xB0 = .instr .clrstat ∧
    decode v 0xC0 = .illegal .reservedOp ∧ decode v 0x91 = .illegal .argNotZero ∧
    decode v 0x5F = .illegal .roundAboveNr

/-- R82, R84, R87: on every instance, a word decodes to an instruction exactly when the instruction is
well formed and the word is its encoding. -/
def Obligations.DecodeIffEncode : Prop :=
  ∀ (v : Variant) (w : Byte) (i : Instr),
    decode v w = .instr i ↔ (i.wellFormed v = true ∧ encode i = w)

/-- R86: which words are refused, by `op = w div 16` and `arg = w mod 16`, and how many are left. -/
def Obligations.IllegalWords : Prop :=
  ∀ v : Variant,
    (∀ w : Byte,
      (∃ why, decode v w = .illegal why) ↔
        (0xC ≤ w.toNat / 16 ∨ (w.toNat / 16 ≠ 0x5 ∧ w.toNat % 16 ≠ 0) ∨
          (w.toNat / 16 = 0x5 ∧ v.nr < w.toNat % 16))) ∧
    ((List.range 256).filter fun n => (decode v (BitVec.ofNat 8 n)).instr?.isSome).length =
      11 + (v.nr + 1)

/-! ## The codec, the arithmetic, the tables and the transforms -/

/-- R101: the code is linear; its columns; its kernel; every code is taken by 16 bytes. -/
def Obligations.CodeIsLinear : Prop :=
  (∀ a b : Byte, codeOf (a ^^^ b) = codeOf a ^^^ codeOf b) ∧ codeOf 0x00 = 0 ∧
  (List.range 8).map (fun k => codeOf (1#8 <<< k)) = [0x3, 0xD, 0x5, 0x9, 0xE, 0x6, 0xA, 0xC] ∧
  (∀ x : Byte, codeOf x = 0 ↔
    x ∈ [0x00, 0x13, 0x25, 0x36, 0x49, 0x5A, 0x6C, 0x7F, 0x8C, 0x9F, 0xA9, 0xBA, 0xC5, 0xD6, 0xE0,
      0xF3#8]) ∧
  ∀ c : Nibble, ((List.range 256).filter fun x => codeOf (BitVec.ofNat 8 x) = c).length = 16

/-- R144: the syndrome decoder finds bit `k` exactly for the syndrome of a flip of bit `k`, and the
unrecognised syndromes are 1, 2, 4, 7, 8, B and F. -/
def Obligations.SyndromeDecoder : Prop :=
  ∀ d : Nibble,
    (∀ k, synDec d = some k ↔ (k < 8 ∧ d = codeOf (1#8 <<< k))) ∧
    ((d ≠ 0 ∧ synDec d = none) ↔ unrecognized d = true) ∧ synDec 0 = none

/-- R111, R121, R134: the S-box is the affine image of the inverse in GF(2^8), INVSBOX undoes it on
both sides, and SBOXHAM is the code of it. -/
def Obligations.ConstantTables : Prop :=
  ∀ x : Byte,
    (∃ i : Byte, (x = 0 → i = 0) ∧ (x ≠ 0 → gmul x i = 1) ∧
      sbox x = i ^^^ i.rotateLeft 1 ^^^ i.rotateLeft 2 ^^^ i.rotateLeft 3 ^^^ i.rotateLeft 4 ^^^ 0x63) ∧
    invSbox (sbox x) = x ∧ sbox (invSbox x) = x ∧ sboxHam x = codeOf (sbox x)

/-- R115, R117: multiplication distributes over XOR, its values at 0 to 3, and MixColumns is linear. -/
def Obligations.MixColumnsIsLinear : Prop :=
  (∀ a b c : Byte, gmul (a ^^^ c) b = gmul a b ^^^ gmul c b) ∧
  (∀ a : Byte, gmul a 1 = a ∧ gmul a 0 = 0 ∧ gmul a 2 = xtime a ∧ gmul a 3 = xtime a ^^^ a) ∧
  ∀ S E : Lanes Byte, mixColumns (S.xor E) = (mixColumns S).xor (mixColumns E)

/-- R118, R120: each inverse transform undoes its transform on both sides, and AddRoundKey undoes
itself, for every State and every RK. -/
def Obligations.InverseTransformsUndo : Prop :=
  ∀ S : Lanes Byte,
    invShiftRows (shiftRows S) = S ∧ shiftRows (invShiftRows S) = S ∧
    invSubBytes (subBytes S) = S ∧ subBytes (invSubBytes S) = S ∧
    invMixColumns (mixColumns S) = S ∧ mixColumns (invMixColumns S) = S ∧
    ∀ rk k, addRoundKey rk k (addRoundKey rk k S) = S

/-- R136: each predictor gives the codes of the transformed State; the ones of SubBytes and MixColumns
for every PCODE, the ones of ShiftRows and AddRoundKey when PCODE describes State. -/
def Obligations.PredictorsAreRight : Prop :=
  ∀ (rk : Memory) (k : Nat) (S : Lanes Byte) (pcode : Lanes Nibble),
    (∀ n, (predictSub S pcode).get n = codeOf ((subBytes S).get n)) ∧
    (∀ n, (predictMix S pcode).get n = codeOf ((mixColumns S).get n)) ∧
    ((∀ n, pcode.get n = codeOf (S.get n)) →
      (∀ n, (predictShift S pcode).get n = codeOf ((shiftRows S).get n)) ∧
      ∀ n, (predictArk rk k S pcode).get n = codeOf ((addRoundKey rk k S).get n))

/-! ## Verification and correction -/

/-- R145, R148: what the corrector flips, and the record an event step leaves, whatever the verdict. -/
def Obligations.CorrectorAndEventRecord : Prop :=
  ∀ (op : Byte) (s : State),
    ∃ t, (verifyCorrect op s = .ok t ∨ verifyCorrect op s = .raised t) ∧
      (∀ n, ∀ k : Fin 8, syndromeAt s n = codeOf (1#8 <<< k.val) →
        t.S.get n = s.S.get n ^^^ 1#8 <<< k.val) ∧
      (∀ n, (∀ k : Fin 8, syndromeAt s n ≠ codeOf (1#8 <<< k.val)) → t.S.get n = s.S.get n) ∧
      t.pcode = s.pcode ∧
      ((∀ n, syndromeAt s n = 0) → t = s) ∧
      ((∃ n, syndromeAt s n ≠ 0) →
        (∀ n, t.lastdiff.get n = syndromeAt s n) ∧
        (∀ n : Fin 16, t.lastcorr.getLsbD n.val = true ↔
          ∃ k : Fin 8, syndromeAt s n = codeOf (1#8 <<< k.val)) ∧
        (∀ n : Fin 16, t.unrecmask.getLsbD n.val = unrecognized (syndromeAt s n)) ∧
        t.estep = op ∧ t.eindex = s.idx ∧ t.corrected = (s.corrected || t.lastcorr != 0))

/-- R149 (a): under REFRESH the step faults exactly when some syndrome is unrecognised, with FAILMASK
the unrecognised bytes and FCAUSE = UNRECOGNIZED; else every byte agrees with PCODE afterwards. -/
def Obligations.RefreshVerdict : Prop :=
  ∀ (op : Byte) (s : State), s.recheck = .refresh →
    ((∃ n, unrecognized (syndromeAt s n) = true) →
      ∃ t, verifyCorrect op s = .raised t ∧ t.mode = .fault ∧ t.done = false ∧ t.fcause = 0x02 ∧
        t.failmask = t.unrecmask ∧
        ∀ n : Fin 16, t.failmask.getLsbD n.val = unrecognized (syndromeAt s n)) ∧
    ((∀ n, unrecognized (syndromeAt s n) = false) →
      ∃ t, verifyCorrect op s = .ok t ∧ ∀ n, t.pcode.get n = codeOf (t.S.get n))

/-- R149 (b): under STALE every detected mismatch faults, also where the byte was repaired; the cause
bits say which kinds of byte there were. -/
def Obligations.StaleVerdict : Prop :=
  ∀ (op : Byte) (s : State), s.recheck = .stale →
    ((∃ n, syndromeAt s n ≠ 0) →
      ∃ t, verifyCorrect op s = .raised t ∧ t.mode = .fault ∧ t.done = false ∧
        t.failmask = t.lastcorr ||| t.unrecmask ∧
        (∀ n : Fin 16, t.failmask.getLsbD n.val = (syndromeAt s n != 0)) ∧
        (t.fcause.getLsbD 0 = true ↔ t.lastcorr ≠ 0) ∧
        (t.fcause.getLsbD 1 = true ↔ t.unrecmask ≠ 0) ∧
        ∀ n, t.S.get n = correctByte (s.S.get n) (syndromeAt s n)) ∧
    ((∀ n, syndromeAt s n = 0) → verifyCorrect op s = .ok s)

/-- R149 (e): the verdict and the record of a step depend on the syndromes alone: two states with the
same syndromes pass or fault together and leave the same record, whatever their data. -/
def Obligations.VerdictIgnoresData : Prop :=
  ∀ (op : Byte) (s p : State), s.recheck = p.recheck → s.idx = p.idx →
    (∀ n, syndromeAt s n = syndromeAt p n) → (∃ n, syndromeAt s n ≠ 0) →
    ∃ t u,
      (verifyCorrect op s = .ok t ∧ verifyCorrect op p = .ok u ∨
        verifyCorrect op s = .raised t ∧ verifyCorrect op p = .raised u ∧ t.failmask = u.failmask ∧
          t.fcause = u.fcause) ∧
      t.lastdiff = u.lastdiff ∧ t.lastcorr = u.lastcorr ∧ t.unrecmask = u.unrecmask ∧
      t.estep = u.estep ∧ t.eindex = u.eindex ∧
      ∀ n, t.S.get n ^^^ s.S.get n = u.S.get n ^^^ p.S.get n

/-! ## The guarded micro-operations GSUB, GSHR, GMIX, GARK -/

/-- R166, R175: issued directly and without an upset, GSUB and GMIX for every PCODE, GSHR and GARK when
PCODE describes State, complete with the transformed State and its codes, and change nothing else. -/
def Obligations.GuardedFaultFree : Prop :=
  ∀ (i : Instr) (f : Lanes Byte → Lanes Byte) (s : State),
    guardedTransform s.rk i = some f → s.idx = 0 → s.seu = .none →
    (readsPcode i = true → Synced s) →
    exec i s = .next { s with
      S := f s.S
      pcode := codes (f s.S)
      mode := .idle
      idx := 0
      done := true }

/-- The frame of GSUB, GSHR, GMIX and GARK, issued directly, under every upset: no other
register, and no byte of RK, changes; the event record changes only as a whole, and the fault record only
in FAULT. -/
def Obligations.GuardedFrame : Prop :=
  ∀ (i : Instr) (f : Lanes Byte → Lanes Byte) (s t : State),
    guardedTransform s.rk i = some f → exec i s = .next t →
    t.variant = s.variant ∧ t.recheck = s.recheck ∧
    (∀ a, Memory.read t.rk a = Memory.read s.rk a) ∧ t.rk = s.rk ∧
    t.top = s.top ∧ t.cmderr = s.cmderr ∧ t.rdata = s.rdata ∧ t.seu = s.seu ∧
    t.agenda = s.agenda ∧ t.free = s.free ∧ t.rstLow = s.rstLow ∧
    ((t.lastdiff = s.lastdiff ∧ t.lastcorr = s.lastcorr ∧ t.unrecmask = s.unrecmask ∧
        t.estep = s.estep ∧ t.eindex = s.eindex ∧ t.corrected = s.corrected) ∨
      ((∃ n, t.lastdiff.get n ≠ 0) ∧ t.estep = encode i ∧ t.eindex = s.idx ∧
        t.corrected = (s.corrected || t.lastcorr != 0))) ∧
    ((t.mode = .idle ∧ t.done = true ∧ t.idx = 0 ∧ t.failmask = s.failmask ∧ t.fcause = s.fcause) ∨
      (t.mode = .fault ∧ t.done = false ∧ t.idx = s.idx ∧ t.failmask ≠ 0 ∧
        t.fcause = fcauseOf t.failmask t.lastcorr t.unrecmask))

/-- R149 (c), R243: under REFRESH, an upset at point B of at most one bit of each State byte is undone in
every guarded step of every command, ENC and DEC included: it goes on as without the upset. -/
def Obligations.SingleBitAtBRestored : Prop :=
  ∀ (i : Instr) (m : MicroOp) (f : Lanes Byte → Lanes Byte) (s : State),
    (microList s.variant i)[s.idx.toNat]? = some m → guardedTransform s.rk m.instr = some f →
    s.recheck = .refresh → SingleBitAtB s.seu → (readsPcode m.instr = true → Synced s) →
    WentOnWith i s (f s.S)

/-- R243: under REFRESH, an upset at point A of at most one bit of each State byte is undone in every GSHR
and GARK of every command, ENC and DEC included. -/
def Obligations.SingleBitAtARestored : Prop :=
  ∀ (i : Instr) (m : MicroOp) (f : Lanes Byte → Lanes Byte) (s : State),
    (microList s.variant i)[s.idx.toNat]? = some m → guardedTransform s.rk m.instr = some f →
    readsPcode m.instr = true → s.recheck = .refresh → SingleBitAtA s.seu → Synced s →
    WentOnWith i s (f s.S)

/-- R149 (a), R170, R171, R204, R205: under REFRESH, in any guarded step of any command, ENC and DEC
included, an upset at point B whose syndrome in some byte is unrecognised enters FAULT, with the records of
that step, and leaves those bytes as observed. -/
def Obligations.UnrecognizedUpsetFaults : Prop :=
  ∀ (i : Instr) (m : MicroOp) (f : Lanes Byte → Lanes Byte) (s : State),
    (microList s.variant i)[s.idx.toNat]? = some m → guardedTransform s.rk m.instr = some f →
    s.recheck = .refresh → s.seu.a = .fill 0 → s.seu.c = .fill 0 →
    (readsPcode m.instr = true → Synced s) →
    (∃ n, unrecognized (codeOf (s.seu.b.get n)) = true) →
    ∃ t, exec i s = .next t ∧ t.mode = .fault ∧ t.done = false ∧ t.idx = s.idx ∧ t.top = s.top ∧
      t.fcause = 0x02 ∧ t.estep = encode m.instr ∧ t.eindex = s.idx ∧ t.pcode = codes (f s.S) ∧
      (∀ n : Fin 16, t.failmask.getLsbD n.val = unrecognized (codeOf (s.seu.b.get n))) ∧
      (∀ n, t.lastdiff.get n = codeOf (s.seu.b.get n)) ∧
      ∀ n, unrecognized (codeOf (s.seu.b.get n)) = true →
        t.S.get n = (f s.S).get n ^^^ s.seu.b.get n

/-- R149 (b), R170, R171, R244: under STALE, in any guarded step of any command, ENC and DEC included,
every upset at point B with a nonzero syndrome in some byte enters FAULT, naming exactly those bytes. -/
def Obligations.StaleDetectedUpsetFaults : Prop :=
  ∀ (i : Instr) (m : MicroOp) (f : Lanes Byte → Lanes Byte) (s : State),
    (microList s.variant i)[s.idx.toNat]? = some m → guardedTransform s.rk m.instr = some f →
    s.recheck = .stale → s.seu.a = .fill 0 → s.seu.c = .fill 0 →
    (readsPcode m.instr = true → Synced s) →
    (∃ n, codeOf (s.seu.b.get n) ≠ 0) →
    ∃ t, exec i s = .next t ∧ t.mode = .fault ∧ t.done = false ∧ t.idx = s.idx ∧ t.top = s.top ∧
      t.estep = encode m.instr ∧ t.eindex = s.idx ∧
      (∀ n, t.lastdiff.get n = codeOf (s.seu.b.get n)) ∧
      ∀ n : Fin 16, t.failmask.getLsbD n.val = (codeOf (s.seu.b.get n) != 0)

/-- R149 (d): under REFRESH, in any guarded step of any command, ENC and DEC included, an upset at point B
whose every byte pattern has a recognised or a zero syndrome is never reported as a fault; a kernel pattern
stays in State, and a pattern with the syndrome of bit `k` leaves State wrong by itself and that bit. -/
def Obligations.SilentMiscorrection : Prop :=
  ∀ (i : Instr) (m : MicroOp) (f : Lanes Byte → Lanes Byte) (s : State),
    (microList s.variant i)[s.idx.toNat]? = some m → guardedTransform s.rk m.instr = some f →
    s.recheck = .refresh → s.seu.a = .fill 0 → s.seu.c = .fill 0 →
    (readsPcode m.instr = true → Synced s) →
    (∀ n, unrecognized (codeOf (s.seu.b.get n)) = false) →
    ∃ t, exec i s = .next t ∧ WentOn i s t ∧ t.failmask = s.failmask ∧ t.fcause = s.fcause ∧
      ∀ n,
        (codeOf (s.seu.b.get n) = 0 → t.S.get n = (f s.S).get n ^^^ s.seu.b.get n) ∧
        ∀ k : Fin 8, codeOf (s.seu.b.get n) = codeOf (1#8 <<< k.val) →
          t.S.get n = (f s.S).get n ^^^ s.seu.b.get n ^^^ 1#8 <<< k.val

/-- R101 (b), R144 (90_conflicts.md C6): in any guarded step of any command, ENC and DEC included, a single
flipped bit of one PredictedCode nibble (point C) has a weight-1 syndrome and faults, with State transformed
correctly; under either RECHECK. -/
def Obligations.SingleCodeFlipFaults : Prop :=
  ∀ (i : Instr) (m : MicroOp) (f : Lanes Byte → Lanes Byte) (s : State) (p : Fin 16) (j : Fin 4),
    (microList s.variant i)[s.idx.toNat]? = some m → guardedTransform s.rk m.instr = some f →
    s.seu = { a := .fill 0, b := .fill 0, c := (Lanes.fill 0).set p (1#4 <<< j.val) } →
    (readsPcode m.instr = true → Synced s) →
    ∃ t, exec i s = .next t ∧ t.mode = .fault ∧ t.done = false ∧ t.idx = s.idx ∧ t.S = f s.S ∧
      t.fcause = 0x02 ∧ t.estep = encode m.instr ∧ t.eindex = s.idx ∧
      t.failmask = 1#16 <<< p.val ∧ t.unrecmask = 1#16 <<< p.val

/-- R241: issued directly, with no upset at all, GARK sees the syndromes of a stale PCODE, and GSHR sees
them where the bytes move to. -/
def Obligations.StalePcodeIsSeen : Prop :=
  ∀ s : State, s.idx = 0 → s.seu = .none → (∃ n, syndromeAt s n ≠ 0) →
    (∀ k : BitVec 4,
      ∃ t, exec (.gark k) s = .next t ∧ ∀ n, t.lastdiff.get n = syndromeAt s n) ∧
    ∃ t, exec .gshr s = .next t ∧ t.lastdiff = shiftRows (Lanes.build fun c r =>
      codeOf (s.S.entry c r) ^^^ s.pcode.entry c r)

/-- R242: in any command, ENC and DEC included, a flip of State just before GSHR or GARK is that step with
the flip added to mask `a`; just before GSUB or GMIX, without an upset, it is absorbed: the step goes on as
an ordinary one. -/
def Obligations.FlipBetweenSteps : Prop :=
  ∀ (i : Instr) (m : MicroOp) (f : Lanes Byte → Lanes Byte) (s : State) (e : Lanes Byte) (u : Seu),
    (microList s.variant i)[s.idx.toNat]? = some m → guardedTransform s.rk m.instr = some f →
    (readsPcode m.instr = true →
      ∃ t, exec i { s with S := s.S.xor e, seu := u } = .next { t with seu := u } ∧
        exec i { s with seu := { u with a := e.xor u.a } } = .next t) ∧
    (readsPcode m.instr = false →
      ∃ t, exec i { s with S := s.S.xor e, seu := .none } = .next t ∧ WentOn i s t ∧
        t.S = f (s.S.xor e) ∧ t.pcode = codes t.S ∧ t.lastdiff = s.lastdiff)

/-! ## The unguarded micro-operations and the system commands -/

/-- R102, R175: SEED, issued directly, gives every nibble of PCODE the code of its State byte, and
changes nothing else but the sequencer. -/
def Obligations.SeedResult : Prop :=
  ∀ s : State, s.idx = 0 →
    ∃ t, exec .seed s = .next t ∧ Synced t ∧
      t = { s with pcode := t.pcode, mode := .idle, idx := 0, done := true }

/-- R120, R124, R125, R126, R175: ISHR, ISUB and IMIX, issued directly, transform State, whatever the
masks, and change nothing else, PCODE included, but the sequencer. -/
def Obligations.InverseResults : Prop :=
  ∀ s : State, s.idx = 0 →
    (∃ t, exec .ishr s = .next t ∧
      (∀ c r, c < 4 → r < 4 → t.S.entry c r = s.S.entry ((c + 4 - r) % 4) r) ∧
      t = { s with S := t.S, mode := .idle, idx := 0, done := true }) ∧
    (∃ t, exec .isub s = .next t ∧ (∀ n, t.S.get n = invSbox (s.S.get n)) ∧
      t = { s with S := t.S, mode := .idle, idx := 0, done := true }) ∧
    ∃ t, exec .imix s = .next t ∧ mixColumns t.S = s.S ∧
      t = { s with S := t.S, mode := .idle, idx := 0, done := true }

/-- R190, R191, R175: NOP changes only the sequencer and DONE; CLRSTAT besides clears CORRECTED, CMDERR
and the event record, and keeps FAILMASK and FCAUSE. -/
def Obligations.SystemResults : Prop :=
  ∀ s : State, s.idx = 0 →
    exec .nop s = .next { s with mode := .idle, idx := 0, done := true } ∧
    exec .clrstat s = .next { s with
      corrected := false
      cmderr := false
      lastdiff := .fill 0
      lastcorr := 0
      unrecmask := 0
      estep := 0
      eindex := 0
      mode := .idle
      idx := 0
      done := true }

/-! ## The driver: ENC, DEC and the sequencer -/

/-- R172: `EncProg` by its index formulas, and its length. -/
def Obligations.EncProgEntries : Prop :=
  ∀ v : Variant,
    (encProg v).length = 4 * v.nr + 1 ∧ (encProg v)[0]? = some .seed ∧
    (encProg v)[1]? = some (.gark 0) ∧
    (∀ k, 1 ≤ k → k ≤ v.nr - 1 →
      (encProg v)[4 * k - 2]? = some .gsub ∧ (encProg v)[4 * k - 1]? = some .gshr ∧
      (encProg v)[4 * k]? = some .gmix ∧ (encProg v)[4 * k + 1]? = some (.gark (BitVec.ofNat 4 k))) ∧
    (encProg v)[4 * v.nr - 2]? = some .gsub ∧ (encProg v)[4 * v.nr - 1]? = some .gshr ∧
    (encProg v)[4 * v.nr]? = some (.gark (BitVec.ofNat 4 v.nr))

/-- R173: `DecProg` by its index formulas, and its length. -/
def Obligations.DecProgEntries : Prop :=
  ∀ v : Variant,
    (decProg v).length = 5 * v.nr + 1 ∧ (decProg v)[0]? = some .seed ∧
    (decProg v)[1]? = some (.gark (BitVec.ofNat 4 v.nr)) ∧
    (∀ k, 1 ≤ k → k ≤ v.nr - 1 →
      let j := v.nr - 1 - k
      (decProg v)[2 + 5 * j]? = some .ishr ∧ (decProg v)[3 + 5 * j]? = some .isub ∧
      (decProg v)[4 + 5 * j]? = some .seed ∧
      (decProg v)[5 + 5 * j]? = some (.gark (BitVec.ofNat 4 k)) ∧
      (decProg v)[6 + 5 * j]? = some .imix) ∧
    (decProg v)[5 * v.nr - 3]? = some .ishr ∧ (decProg v)[5 * v.nr - 2]? = some .isub ∧
    (decProg v)[5 * v.nr - 1]? = some .seed ∧ (decProg v)[5 * v.nr]? = some (.gark 0)

/-- R91: the pseudo-instructions issue exactly the micro-operations of ENC and of DEC, in order. -/
def Obligations.PseudoInstructionsExpand : Prop :=
  ∀ v : Variant,
    pseudoEncrypt v = (encProg v).map MicroOp.instr ∧
    pseudoDecrypt v = (decProg v).map MicroOp.instr

/-- R175: one sequencer step of any command, ENC and DEC included, at any position of its list, under
every upset: it answers a next state, which is FAULT with `idx` unchanged, or IDLE with DONE at the end
of the list, or the next position. -/
def Obligations.SequencerStep : Prop :=
  ∀ (i : Instr) (s : State), s.idx.toNat < (microList s.variant i).length →
    ∃ t, exec i s = .next t ∧
      ((t.mode = .fault ∧ t.idx = s.idx ∧ t.done = false) ∨
        (s.idx.toNat + 1 = (microList s.variant i).length ∧ t.mode = .idle ∧ t.idx = 0 ∧
          t.done = true) ∨
        (s.idx.toNat + 1 < (microList s.variant i).length ∧ t.mode = s.mode ∧
          t.idx.toNat = s.idx.toNat + 1 ∧ t.done = s.done))

/-- The frame of one sequencer step of any command, ENC and DEC included, under every upset: only a
guarded entry leaves an event record or a fault record, only CLRSTAT clears a flag, and an unguarded
entry leaves the State and PCODE of its rule, whatever the masks (R120, R175). -/
def Obligations.SequencerFrame : Prop :=
  ∀ (i : Instr) (m : MicroOp) (s t : State),
    (microList s.variant i)[s.idx.toNat]? = some m → exec i s = .next t →
    t.variant = s.variant ∧ t.recheck = s.recheck ∧
    (∀ a, Memory.read t.rk a = Memory.read s.rk a) ∧ t.rk = s.rk ∧
    t.top = s.top ∧ t.rdata = s.rdata ∧ t.seu = s.seu ∧ t.agenda = s.agenda ∧ t.free = s.free ∧
    t.rstLow = s.rstLow ∧
    (guardedTransform s.rk m.instr = none →
      t.S = (faultFree s m).S ∧ t.pcode = (faultFree s m).pcode) ∧
    (m ≠ .clrstat → t.cmderr = s.cmderr) ∧
    (t.mode ≠ .fault → t.failmask = s.failmask ∧ t.fcause = s.fcause) ∧
    (s.mode ≠ .fault → t.mode = .fault → guardedTransform s.rk m.instr ≠ none) ∧
    (m ≠ .clrstat →
      (t.lastdiff = s.lastdiff ∧ t.lastcorr = s.lastcorr ∧ t.unrecmask = s.unrecmask ∧
        t.estep = s.estep ∧ t.eindex = s.eindex ∧ t.corrected = s.corrected) ∨
      (guardedTransform s.rk m.instr ≠ none ∧ (∃ n, t.lastdiff.get n ≠ 0) ∧
        t.estep = encode m.instr ∧ t.eindex = s.idx ∧
        t.corrected = (s.corrected || t.lastcorr != 0)))

/-- R175, R166, R120: one sequencer step of any command, ENC and DEC included, at any position: its exact
next state, of an unguarded entry whatever the masks, of a guarded one without an upset. GSHR and GARK
need a PCODE that describes State. -/
def Obligations.SequencerStepFaultFree : Prop :=
  ∀ (i : Instr) (m : MicroOp) (s : State),
    (microList s.variant i)[s.idx.toNat]? = some m →
    (guardedTransform s.rk m.instr ≠ none → s.seu = .none) →
    (readsPcode m.instr = true → Synced s) →
    exec i s = .next
      (if s.idx.toNat + 1 = (microList s.variant i).length then
        { faultFree s m with mode := .idle, idx := 0, done := true }
      else { faultFree s m with idx := s.idx + 1 })

/-- R160 to R164, R175: one guarded step of any command, ENC and DEC included, under every upset, of any
number of bits at any point. Mask `a` enters after the prediction and before the transform, `b` after it,
`c` in the predicted code; the verdict on the result is the step's, and without a Fault the sequencer goes
on. The last clause gives the syndromes of that result; where the prediction reads PCODE, PCODE must have
described State before the step. -/
def Obligations.GuardedStepUnderMasks : Prop :=
  ∀ (i : Instr) (m : MicroOp) (f : Lanes Byte → Lanes Byte) (s : State),
    (microList s.variant i)[s.idx.toNat]? = some m → guardedTransform s.rk m.instr = some f →
    let e := { s with
      S := (f (s.S.xor s.seu.a)).xor s.seu.b
      pcode := (predictedCode s m).xor s.seu.c }
    (∀ t, verifyCorrect (encode m.instr) e = .ok t → exec i s = .next
      (if s.idx.toNat + 1 = (microList s.variant i).length then
        { t with mode := .idle, idx := 0, done := true }
      else { t with idx := s.idx + 1 })) ∧
    (∀ t, verifyCorrect (encode m.instr) e = .raised t → exec i s = .next t) ∧
    ((readsPcode m.instr = true → Synced s) → ∀ n, syndromeAt e n =
      codeOf ((f (s.S.xor s.seu.a)).get n) ^^^ codeOf ((f s.S).get n) ^^^
        codeOf (s.seu.b.get n) ^^^ s.seu.c.get n)

/-- The model's choice (assumption 8), of states no run reaches: a command at a position past the end of
its list stops. -/
def Obligations.PastTheListStops : Prop :=
  ∀ (i : Instr) (s : State), (microList s.variant i).length ≤ s.idx.toNat →
    exec i s = .fault .idxPastEnd

/-- R170, R175: an accepted ENC, with no move of another agent and no upset, runs its 4*Nr + 1 steps to
IDLE with DONE, State the AES encryption of the block, PCODE its codes, and nothing else changed. -/
def Obligations.EncComputesCipher : Prop :=
  ∀ s : State, s.rstLow = false → s.mode = .run → s.top = 0x90 → s.idx = 0 → s.agenda = [] →
    Host.Core.run core (4 * s.variant.nr + 1) s = .next { s with
      S := cipher s.variant s.rk s.S
      pcode := codes (cipher s.variant s.rk s.S)
      mode := .idle
      idx := 0
      done := true
      seu := .none }

/-- R171, R175: the same of DEC, its 5*Nr + 1 steps and AES decryption. -/
def Obligations.DecComputesInvCipher : Prop :=
  ∀ s : State, s.rstLow = false → s.mode = .run → s.top = 0xA0 → s.idx = 0 → s.agenda = [] →
    Host.Core.run core (5 * s.variant.nr + 1) s = .next { s with
      S := invCipher s.variant s.rk s.S
      pcode := codes (invCipher s.variant s.rk s.S)
      mode := .idle
      idx := 0
      done := true
      seu := .none }

/-- R179: for every variant, RK and block, without an upset, the host's ENC and then its DEC restore
the block, and neither command faults. That each `WAIT` is the bare CORE steps of its command, without
the polling reads, is the model's choice (assumption 13). -/
def Obligations.EncDecRoundTrip : Prop :=
  ∀ s : State, s.rstLow = false → s.mode = .idle →
    s.agenda = issueWait s.variant .enc ++ issueWait s.variant .dec →
    ∃ u t : State,
      Host.Core.run core (issueWait s.variant .enc).length s = .next u ∧
      u.mode = .idle ∧ u.done = true ∧ u.S = cipher s.variant s.rk s.S ∧ u.rk = s.rk ∧
      Host.Core.run core (issueWait s.variant .dec).length u = .next t ∧
      t.mode = .idle ∧ t.done = true ∧ t.S = s.S ∧ t.rk = s.rk

/-- R149 (c), R243: under REFRESH, an ENC in whose every step an upset may flip at most one bit of each
State byte at point B still ends with the AES encryption of the block and no fault. -/
def Obligations.EncToleratesSingleBits : Prop :=
  ∀ (s : State) (masks : List Seu), s.rstLow = false → s.recheck = .refresh → s.mode = .run →
    s.top = 0x90 → s.idx = 0 → masks.length = 4 * s.variant.nr + 1 → (∀ u ∈ masks, SingleBitAtB u) →
    s.agenda = masks.map .core →
    ∃ t : State, Host.Core.run core (4 * s.variant.nr + 1) s = .next t ∧
      t.S = cipher s.variant s.rk s.S ∧ t.pcode = codes (cipher s.variant s.rk s.S) ∧
      t.mode = .idle ∧ t.done = true ∧ t.failmask = s.failmask ∧ t.fcause = s.fcause

/-- R149 (c), R243: the same of DEC, where the masks reach only its GARK steps. -/
def Obligations.DecToleratesSingleBits : Prop :=
  ∀ (s : State) (masks : List Seu), s.rstLow = false → s.recheck = .refresh → s.mode = .run →
    s.top = 0xA0 → s.idx = 0 → masks.length = 5 * s.variant.nr + 1 →
    (∀ u ∈ masks, SingleBitAtB u ∨ SingleBitAtA u) →
    s.agenda = masks.map .core →
    ∃ t : State, Host.Core.run core (5 * s.variant.nr + 1) s = .next t ∧
      t.S = invCipher s.variant s.rk s.S ∧ t.pcode = codes (invCipher s.variant s.rk s.S) ∧
      t.mode = .idle ∧ t.done = true ∧ t.failmask = s.failmask ∧ t.fcause = s.fcause

/-- R91: the micro-operations of ENC (of DEC) issued one by one by the host, each followed by its wait,
end with the State and PCODE of ENC (of DEC). That the wait is the bare CORE steps of the command,
without the polling reads, is the model's choice (assumption 13). -/
def Obligations.MicroCommandsComputeCipher : Prop :=
  ∀ s : State, s.rstLow = false → s.mode = .idle →
    (s.agenda = (pseudoEncrypt s.variant).flatMap (issueWait s.variant) →
      ∃ t : State, Host.Core.run core s.agenda.length s = .next t ∧ t.mode = .idle ∧ t.done = true ∧
        t.S = cipher s.variant s.rk s.S ∧ t.pcode = codes (cipher s.variant s.rk s.S)) ∧
    (s.agenda = (pseudoDecrypt s.variant).flatMap (issueWait s.variant) →
      ∃ t : State, Host.Core.run core s.agenda.length s = .next t ∧ t.mode = .idle ∧ t.done = true ∧
        t.S = invCipher s.variant s.rk s.S ∧ t.pcode = codes (invCipher s.variant s.rk s.S))

/-- R175, R245: an accepted command leaves mode RUN within as many CORE steps as its list has entries
left, whatever the upsets. After an early Fault the CORE moves that are left answer the same state, which
is the model's choice (assumption 6). -/
def Obligations.CommandTerminates : Prop :=
  ∀ (s : State) (i : Instr) (masks : List Seu), s.rstLow = false → s.mode = .run →
    decode s.variant s.top = .instr i →
    s.idx.toNat + masks.length = (microList s.variant i).length → masks ≠ [] →
    s.agenda = masks.map .core →
    ∃ t : State, Host.Core.run core masks.length s = .next t ∧ t.mode ≠ .run

/-! ## The host's accesses -/

/-- R81, R88: a word written to CMD. In IDLE a legal word is accepted, and an illegal one sets CMDERR
and changes nothing else; in RUN and FAULT no command is issued. -/
def Obligations.CommandWrite : Prop :=
  ∀ (s : State) (w : Byte) (rest : List Move), s.rstLow = false → s.agenda = .write 0x010 w :: rest →
    (s.mode = .idle →
      (∀ i, decode s.variant w = .instr i →
        step s = .next { s with agenda := rest, top := w, idx := 0, mode := .run, done := false }) ∧
      (∀ why, decode s.variant w = .illegal why →
        step s = .next { s with agenda := rest, cmderr := true })) ∧
    (s.mode = .run → step s = .next { s with agenda := rest, cmderr := true }) ∧
    (s.mode = .fault → step s = .next { s with agenda := rest })

/-- R57: a write in IDLE at STATE changes that State byte only, at RK that byte of RK only (for an RK
in canonical form); at CMD a legal word is accepted; at any other address nothing changes. -/
def Obligations.IdleWrite : Prop :=
  ∀ (s : State) (addr : BitVec 10) (v : Byte) (rest : List Move), s.rstLow = false →
    s.mode = .idle → Memory.wf s.rk → s.agenda = .write addr v :: rest →
    (∀ n : Fin 16, addr.toNat = n.val →
      ∃ t, step s = .next t ∧ t = { s with agenda := rest, S := t.S } ∧
        ∀ p, t.S.get p = if p = n then v else s.S.get p) ∧
    (∀ a, a < 16 * (s.variant.nr + 1) → addr.toNat = 0x100 + a →
      ∃ t, step s = .next t ∧ t = { s with agenda := rest, rk := t.rk } ∧
        ∀ b, Memory.read t.rk b = if b = a then v else Memory.read s.rk b) ∧
    (addr = 0x010 → ∀ i, decode s.variant v = .instr i →
      step s = .next { s with agenda := rest, top := v, idx := 0, mode := .run, done := false }) ∧
    ((0x010 < addr.toNat ∧ addr.toNat < 0x100 ∨ 0x100 + 16 * (s.variant.nr + 1) ≤ addr.toNat) →
      step s = .next { s with agenda := rest })

/-- R58: while BUSY, a read of STATUS returns STATUS; a read elsewhere returns some byte and changes
nothing of the block; a write anywhere sets CMDERR and changes nothing else. -/
def Obligations.BusyAccess : Prop :=
  ∀ (s : State) (addr : BitVec 10) (v : Byte) (rest : List Move), s.rstLow = false →
    s.mode = .run →
    (s.agenda = .read addr :: rest → addr = 0x011 →
      step s = .next { s with agenda := rest, rdata := s.status }) ∧
    (s.agenda = .read addr :: rest → addr ≠ 0x011 →
      ∃ b k, step s = .next { s with agenda := rest, rdata := b, free := k }) ∧
    (s.agenda = .write addr v :: rest → step s = .next { s with agenda := rest, cmderr := true })

/-- R59, R207: in FAULT every move but reset leaves the whole block as it is, a write not even setting
CMDERR; only a read shows a byte on `rdata`. R59 and R207 say it of the host's moves; that a CORE move or
an empty agenda answers the same state is the model's choice (assumption 6), and so is that of a rising
edge of `rst_n` with the pin high (assumption 3). -/
def Obligations.FaultIsSticky : Prop :=
  ∀ s : State, s.mode = .fault → ¬ Resets s →
    ∃ t, step s = .next t ∧ t = { s with agenda := s.agenda.tail, rdata := t.rdata } ∧
      ((∀ addr rest, s.agenda ≠ .read addr :: rest) → t.rdata = s.rdata)

/-- R51, R52, R56, R60: what a read returns in IDLE and in FAULT, address by address; it changes
nothing but `rdata`. -/
def Obligations.ReadRegisters : Prop :=
  ∀ (s : State) (addr : BitVec 10) (rest : List Move), s.rstLow = false →
    (s.mode = .idle ∨ s.mode = .fault) → s.agenda = .read addr :: rest →
    ∃ b, step s = .next { s with agenda := rest, rdata := b } ∧
      (∀ n : Fin 16, addr.toNat = n.val → b = s.S.get n) ∧
      (addr = 0x010 → b = s.top) ∧ (addr = 0x011 → b = s.status) ∧ (addr = 0x012 → b = s.cfg) ∧
      (addr = 0x013 → b = s.fcause) ∧ (addr = 0x014 → b = s.estep) ∧ (addr = 0x015 → b = s.eindex) ∧
      (addr = 0x016 → b.toNat = s.failmask.toNat % 256) ∧
      (addr = 0x017 → b.toNat = s.failmask.toNat / 256) ∧
      (addr = 0x018 → b.toNat = s.lastcorr.toNat % 256) ∧
      (addr = 0x019 → b.toNat = s.lastcorr.toNat / 256) ∧
      (addr = 0x01A → b.toNat = s.unrecmask.toNat % 256) ∧
      (addr = 0x01B → b.toNat = s.unrecmask.toNat / 256) ∧
      (∀ c r, c < 4 → r < 2 → addr.toNat = 0x020 + 2 * c + r →
        b.toNat = (s.pcode.entry c (2 * r)).toNat + 16 * (s.pcode.entry c (2 * r + 1)).toNat) ∧
      (∀ c r, c < 4 → r < 2 → addr.toNat = 0x028 + 2 * c + r →
        b.toNat =
          (s.lastdiff.entry c (2 * r)).toNat + 16 * (s.lastdiff.entry c (2 * r + 1)).toNat) ∧
      (∀ a, a < 16 * (s.variant.nr + 1) → addr.toNat = 0x100 + a → b = Memory.read s.rk a) ∧
      ((0x01C ≤ addr.toNat ∧ addr.toNat ≤ 0x01F ∨ 0x030 ≤ addr.toNat ∧ addr.toNat ≤ 0x0FF ∨
        0x100 + 16 * (s.variant.nr + 1) ≤ addr.toNat) → b = 0x00)

/-- R24, R26: the bits of STATUS and of CFG. -/
def Obligations.StatusAndCfgBits : Prop :=
  ∀ s : State,
    (s.status.getLsbD 0 = true ↔ s.mode = .run) ∧ (s.status.getLsbD 1 = s.done) ∧
    (s.status.getLsbD 2 = true ↔ s.mode = .fault) ∧ (s.status.getLsbD 3 = s.corrected) ∧
    (s.status.getLsbD 4 = s.cmderr) ∧ s.status.toNat < 32 ∧
    (s.cfg.toNat % 4 = 0 ↔ s.variant = .aes128) ∧ (s.cfg.toNat % 4 = 1 ↔ s.variant = .aes192) ∧
    (s.cfg.toNat % 4 = 2 ↔ s.variant = .aes256) ∧
    (s.cfg.getLsbD 2 = true ↔ s.recheck = .stale) ∧ s.cfg.toNat < 8

/-! ## The whole machine -/

/-- R175: in mode RUN, when the accepted word decodes to `i`, a CORE step runs `i` with the masks of
the move, or with none when no move is pending. -/
def Obligations.StepRunsDecodedCommand : Prop :=
  ∀ (s : State) (i : Instr), s.rstLow = false → s.mode = .run →
    decode s.variant s.top = .instr i →
    (s.agenda = [] → step s = exec i { s with seu := .none }) ∧
    (∀ seu rest, s.agenda = .core seu :: rest →
      step s = exec i { s with agenda := rest, seu := seu })

/-- R81, R175: the state made by `withFetchWord` from the word of a well-formed command runs exactly
that command, as accepted, in its next step. -/
def Obligations.FetchedWordRuns : Prop :=
  ∀ (s : State) (i : Instr), i.wellFormed s.variant = true →
    step (s.withFetchWord 8 (encode i).toNat) =
      exec i { s with
        top := encode i
        idx := 0
        mode := .run
        done := false
        seu := .none
        rstLow := false }

/-- R36, R230: in any mode, when `rst_n` goes low and, while it is low, at every move (a write included)
and with none pending, a step leaves control state, STATUS and records at their reset values, keeps the
instance's parameters, and lets State, PCODE and RK hold anything; only the rising edge ends the reset.
That a rising edge of a pin that is high changes nothing is the model's choice (assumption 3). -/
def Obligations.ResetEventValues : Prop :=
  ∀ s : State,
    (Resets s →
      ∃ t, step s = .next t ∧ t.mode = .idle ∧ t.idx = 0 ∧ t.top = 0x00 ∧ t.status = 0x00 ∧
        t.cfg = s.cfg ∧ t.lastdiff = .fill 0 ∧ t.lastcorr = 0 ∧ t.unrecmask = 0 ∧ t.estep = 0 ∧
        t.eindex = 0 ∧ t.failmask = 0 ∧ t.fcause = 0 ∧ t.agenda = s.agenda.tail ∧
        (t.rstLow = false ↔ ∃ rest, s.agenda = .rstRise :: rest)) ∧
    ∀ rest, s.rstLow = false → s.agenda = .rstRise :: rest → step s = .next { s with agenda := rest }

/-- R36, R51, R56, R230: a read while `rst_n` is low returns, address by address, what the block holds in
the reset state, in which the read leaves it. That a read returns a byte there at all is the model's
reading of R56 and R230 (assumption 3). -/
def Obligations.ReadWhileReset : Prop :=
  ∀ (s : State) (addr : BitVec 10) (rest : List Move), s.rstLow = true →
    s.agenda = .read addr :: rest →
    ∃ t, step s = .next t ∧ InResetState t ∧ t.rstLow = true ∧ t.agenda = rest ∧
      (∀ n : Fin 16, addr.toNat = n.val → t.rdata = t.S.get n) ∧
      (addr = 0x012 → t.rdata = s.cfg) ∧
      (0x010 ≤ addr.toNat → addr.toNat < 0x020 → addr ≠ 0x012 → t.rdata = 0x00) ∧
      (∀ c r, c < 4 → r < 2 → addr.toNat = 0x020 + 2 * c + r →
        t.rdata.toNat =
          (t.pcode.entry c (2 * r)).toNat + 16 * (t.pcode.entry c (2 * r + 1)).toNat) ∧
      (0x028 ≤ addr.toNat → addr.toNat < 0x100 → t.rdata = 0x00) ∧
      (∀ a, a < 16 * (s.variant.nr + 1) → addr.toNat = 0x100 + a →
        t.rdata = Memory.read t.rk a) ∧
      (0x100 + 16 * (s.variant.nr + 1) ≤ addr.toNat → t.rdata = 0x00)

/-- The state after reset of every instance meets the invariant. -/
def Obligations.ResetMeetsInv : Prop :=
  ∀ (v : Variant) (r : Recheck), Machine.Inv (State.resetOf v r)

/-- R20 to R32, R230: from every state that meets the invariant, every step, of any agent and under any
upset, gives a state that meets it. -/
def Obligations.StepKeepsInv : Prop :=
  ∀ s t : State, Machine.Inv s → step s = .next t → Machine.Inv t

/-- R175, R245: from every state that meets the invariant, a step is never a stop. That a CORE move in
IDLE and in FAULT answers a next state is the model's choice (assumption 6), and so are the two stops that
the invariant excludes (assumption 8). -/
def Obligations.StepNeverStops : Prop :=
  ∀ s : State, Machine.Inv s → ∃ t, step s = .next t

/-- R23, R81, R175, R204, R207, R230: what moves the mode. IDLE is left only by an accepted command, with
`rst_n` high, RUN for IDLE only by a completion or a reset and for FAULT only with a cause recorded,
FAULT only by a reset. -/
def Obligations.ModeTransitions : Prop :=
  ∀ s t : State, step s = .next t →
    (s.mode = .idle → t.mode ≠ .idle → t.mode = .run ∧ s.rstLow = false ∧
      ∃ w rest i, s.agenda = .write 0x010 w :: rest ∧ decode s.variant w = .instr i) ∧
    (s.mode = .run → t.mode = .idle → t.done = true ∨ Resets s) ∧
    (s.mode = .run → t.mode = .fault → t.fcause = 0x01 ∨ t.fcause = 0x02 ∨ t.fcause = 0x03) ∧
    (s.mode = .fault → t.mode ≠ .fault → Resets s)

/-- R20, R21, R32, R57: who writes the data state. Without a reset, RK changes only by a host write in
IDLE, PCODE only by a step in RUN, and State only by one of the two. -/
def Obligations.DataWriters : Prop :=
  ∀ s t : State, step s = .next t → ¬ Resets s →
    (t.rk ≠ s.rk → s.mode = .idle ∧ ∃ addr v rest, s.agenda = .write addr v :: rest ∧
      0x100 ≤ addr.toNat ∧ addr.toNat < 0x100 + 16 * (s.variant.nr + 1)) ∧
    (t.pcode ≠ s.pcode → s.mode = .run) ∧
    (t.S ≠ s.S → s.mode = .run ∨ (s.mode = .idle ∧ ∃ addr v rest,
      s.agenda = .write addr v :: rest ∧ addr.toNat < 0x010))

/-- R7, R8, R26: no step of any agent changes the instance's parameters, so CFG never changes. -/
def Obligations.ParametersAreConstant : Prop :=
  ∀ s t : State, step s = .next t →
    t.variant = s.variant ∧ t.recheck = s.recheck ∧ t.cfg = s.cfg

/-- R24: in every state that meets the invariant, at most one of BUSY, DONE and FAULT is set. -/
def Obligations.StatusExclusive : Prop :=
  ∀ s : State, Machine.Inv s →
    s.status.getLsbD 0 = false ∧ s.status.getLsbD 1 = false ∨
    s.status.getLsbD 0 = false ∧ s.status.getLsbD 2 = false ∨
    s.status.getLsbD 1 = false ∧ s.status.getLsbD 2 = false

/-- R24: who alone can set and who alone can clear the sticky bits CORRECTED and CMDERR, and DONE. Only a
reset or CLRSTAT clears CORRECTED and CMDERR; in every state that meets the invariant, only a reset or the
acceptance of a command clears DONE. That they do clear them is said by ResetEventValues, SystemResults and
CommandWrite. -/
def Obligations.StatusBitsChange : Prop :=
  ∀ s t : State, step s = .next t →
    (s.corrected = false → t.corrected = true → s.mode = .run ∧ t.lastcorr ≠ 0) ∧
    (s.corrected = true → t.corrected = false →
      Resets s ∨ (s.mode = .run ∧ decode s.variant s.top = .instr .clrstat)) ∧
    (s.cmderr = false → t.cmderr = true → s.rstLow = false ∧
      ∃ addr v rest, s.agenda = .write addr v :: rest ∧
        (s.mode = .run ∨
          s.mode = .idle ∧ addr = 0x010 ∧ ∃ why, decode s.variant v = .illegal why)) ∧
    (s.cmderr = true → t.cmderr = false →
      Resets s ∨ (s.mode = .run ∧ decode s.variant s.top = .instr .clrstat)) ∧
    (s.done = false → t.done = true → s.mode = .run ∧ t.mode = .idle) ∧
    (Machine.Inv s → s.done = true → t.done = false →
      Resets s ∨ (s.mode = .idle ∧ ∃ w rest i, s.agenda = .write 0x010 w :: rest ∧
        decode s.variant w = .instr i))

/-- R201: in FAULT, FCAUSE is UNRECOGNIZED alone under REFRESH; under STALE its bits say whether some
byte was flipped and whether some byte was unrecognised. -/
def Obligations.FaultCauses : Prop :=
  ∀ s : State, Machine.Inv s → s.mode = .fault →
    (s.recheck = .refresh → s.fcause = 0x02) ∧
    (s.recheck = .stale →
      s.fcause = (if s.unrecmask = 0 then 0x00 else 0x02) ||| (if s.lastcorr = 0 then 0x00 else 0x01))
end

