-- ==== Sys2Proof/Laws/Lanes.lean ====
section
/-! SUPPORT. Lanes by their linear index: what each operation on 16 lanes does to lane `n`, and a mask
register bit by bit. -/
namespace Sys2Proof

/-- Two matrices with equal lanes are equal. -/
theorem Lanes.ext_get {α : Type} {m p : Lanes α} (h : ∀ n, m.get n = p.get n) : m = p := by
  obtain ⟨⟨a0, a1, a2, a3⟩, ⟨b0, b1, b2, b3⟩, ⟨c0, c1, c2, c3⟩, ⟨d0, d1, d2, d3⟩⟩ := m
  obtain ⟨⟨e0, e1, e2, e3⟩, ⟨f0, f1, f2, f3⟩, ⟨g0, g1, g2, g3⟩, ⟨h0, h1, h2, h3⟩⟩ := p
  have k0 := h 0; have k1 := h 1; have k2 := h 2; have k3 := h 3
  have k4 := h 4; have k5 := h 5; have k6 := h 6; have k7 := h 7
  have k8 := h 8; have k9 := h 9; have k10 := h 10; have k11 := h 11
  have k12 := h 12; have k13 := h 13; have k14 := h 14; have k15 := h 15
  simp only [Lanes.get, Lanes.entry, Lanes.col, Col.get] at *
  simp_all

@[simp] theorem Lanes.get_fill {α : Type} (v : α) (n : Fin 16) : (Lanes.fill v).get n = v := by
  fin_cases n <;> rfl

@[simp] theorem Lanes.get_map {α β : Type} (f : α → β) (m : Lanes α) (n : Fin 16) :
    (m.map f).get n = f (m.get n) := by
  fin_cases n <;> rfl

@[simp] theorem Lanes.get_zipWith {α β γ : Type} (f : α → β → γ) (m : Lanes α) (p : Lanes β)
    (n : Fin 16) : (Lanes.zipWith f m p).get n = f (m.get n) (p.get n) := by
  fin_cases n <;> rfl

@[simp] theorem Lanes.get_xor {w : Nat} (m p : Lanes (BitVec w)) (n : Fin 16) :
    (m.xor p).get n = m.get n ^^^ p.get n :=
  Lanes.get_zipWith _ m p n

@[simp] theorem Lanes.get_ofIndex {α : Type} (f : Nat → α) (n : Fin 16) :
    (Lanes.ofIndex f).get n = f n.val := by
  fin_cases n <;> rfl

@[simp] theorem Lanes.get_set_same {α : Type} (m : Lanes α) (n : Fin 16) (v : α) :
    (m.set n v).get n = v := by
  fin_cases n <;> rfl

theorem Lanes.get_set_of_ne {α : Type} (m : Lanes α) {n p : Fin 16} (v : α) (h : p ≠ n) :
    (m.set n v).get p = m.get p := by
  fin_cases n <;> fin_cases p <;> first | rfl | exact absurd rfl h

/-- The elementwise XOR with the zero mask. -/
@[simp] theorem Lanes.xor_zero {w : Nat} (m : Lanes (BitVec w)) : m.xor (.fill 0#w) = m :=
  Lanes.ext_get fun n => by simp

/-- The same, with the zero mask as the rules write it. -/
theorem Lanes.xor_fill_zero {w : Nat} (m : Lanes (BitVec w)) : m.xor (.fill 0) = m :=
  Lanes.xor_zero m

/-- A mask applied twice is no mask. -/
@[simp] theorem Lanes.xor_xor_cancel {w : Nat} (m p : Lanes (BitVec w)) : (m.xor p).xor p = m :=
  Lanes.ext_get fun n => by simp

/-- A map after a map. -/
theorem Lanes.map_map {α β γ : Type} (f : β → γ) (g : α → β) (m : Lanes α) :
    (m.map g).map f = m.map (f ∘ g) :=
  Lanes.ext_get fun n => by simp

/-- Bit `n` of a mask register is lane `n`. -/
@[simp] theorem getLsbD_maskOf (m : Lanes Bool) (n : Fin 16) :
    (maskOf m).getLsbD n.val = m.get n := by
  rw [maskOf, BitVec.getLsbD_setWidth, BitVec.getLsbD_ofBoolListLE]
  fin_cases n <;> rfl

/-- A mask register is zero when no lane is set. -/
theorem maskOf_eq_zero_iff (m : Lanes Bool) : maskOf m = 0 ↔ ∀ n, m.get n = false := by
  constructor
  · intro h n
    rw [← getLsbD_maskOf, h]
    simp
  · intro h
    refine BitVec.eq_of_getLsbD_eq fun i hi => ?_
    have := getLsbD_maskOf m ⟨i, hi⟩
    simp_all

/-- Two mask registers with equal bits are equal. -/
theorem mask_ext {x y : BitVec 16} (h : ∀ n : Fin 16, x.getLsbD n.val = y.getLsbD n.val) : x = y :=
  BitVec.eq_of_getLsbD_eq fun i hi => h ⟨i, hi⟩

end Sys2Proof
end

