-- ==== Sys2Proof/Laws/State.lean ====
section
/-! SUPPORT. For each named update of the state, the value of every field after it. -/
namespace Sys2Proof.Machine

/-! ## `recordEvent` -/

section
variable (w : Byte) (d : Lanes Nibble) (c u : BitVec 16) (s : State)

@[simp] theorem recordEvent_variant : (recordEvent w d c u s).variant = s.variant := rfl
@[simp] theorem recordEvent_recheck : (recordEvent w d c u s).recheck = s.recheck := rfl
@[simp] theorem recordEvent_S : (recordEvent w d c u s).S = s.S := rfl
@[simp] theorem recordEvent_pcode : (recordEvent w d c u s).pcode = s.pcode := rfl
@[simp] theorem recordEvent_rk : (recordEvent w d c u s).rk = s.rk := rfl
@[simp] theorem recordEvent_mode : (recordEvent w d c u s).mode = s.mode := rfl
@[simp] theorem recordEvent_top : (recordEvent w d c u s).top = s.top := rfl
@[simp] theorem recordEvent_idx : (recordEvent w d c u s).idx = s.idx := rfl
@[simp] theorem recordEvent_done : (recordEvent w d c u s).done = s.done := rfl
@[simp] theorem recordEvent_corrected :
    (recordEvent w d c u s).corrected = (s.corrected || c != 0) := rfl
@[simp] theorem recordEvent_cmderr : (recordEvent w d c u s).cmderr = s.cmderr := rfl
@[simp] theorem recordEvent_lastdiff : (recordEvent w d c u s).lastdiff = d := rfl
@[simp] theorem recordEvent_lastcorr : (recordEvent w d c u s).lastcorr = c := rfl
@[simp] theorem recordEvent_unrecmask : (recordEvent w d c u s).unrecmask = u := rfl
@[simp] theorem recordEvent_estep : (recordEvent w d c u s).estep = w := rfl
@[simp] theorem recordEvent_eindex : (recordEvent w d c u s).eindex = s.idx := rfl
@[simp] theorem recordEvent_failmask : (recordEvent w d c u s).failmask = s.failmask := rfl
@[simp] theorem recordEvent_fcause : (recordEvent w d c u s).fcause = s.fcause := rfl
@[simp] theorem recordEvent_rdata : (recordEvent w d c u s).rdata = s.rdata := rfl
@[simp] theorem recordEvent_rstLow : (recordEvent w d c u s).rstLow = s.rstLow := rfl
@[simp] theorem recordEvent_seu : (recordEvent w d c u s).seu = s.seu := rfl
@[simp] theorem recordEvent_agenda : (recordEvent w d c u s).agenda = s.agenda := rfl
@[simp] theorem recordEvent_free : (recordEvent w d c u s).free = s.free := rfl

end

/-! ## `clearStatus` -/

section
variable (s : State)

@[simp] theorem clearStatus_variant : (clearStatus s).variant = s.variant := rfl
@[simp] theorem clearStatus_recheck : (clearStatus s).recheck = s.recheck := rfl
@[simp] theorem clearStatus_S : (clearStatus s).S = s.S := rfl
@[simp] theorem clearStatus_pcode : (clearStatus s).pcode = s.pcode := rfl
@[simp] theorem clearStatus_rk : (clearStatus s).rk = s.rk := rfl
@[simp] theorem clearStatus_mode : (clearStatus s).mode = s.mode := rfl
@[simp] theorem clearStatus_top : (clearStatus s).top = s.top := rfl
@[simp] theorem clearStatus_idx : (clearStatus s).idx = s.idx := rfl
@[simp] theorem clearStatus_done : (clearStatus s).done = s.done := rfl
@[simp] theorem clearStatus_corrected : (clearStatus s).corrected = false := rfl
@[simp] theorem clearStatus_cmderr : (clearStatus s).cmderr = false := rfl
@[simp] theorem clearStatus_lastdiff : (clearStatus s).lastdiff = .fill 0 := rfl
@[simp] theorem clearStatus_lastcorr : (clearStatus s).lastcorr = 0 := rfl
@[simp] theorem clearStatus_unrecmask : (clearStatus s).unrecmask = 0 := rfl
@[simp] theorem clearStatus_estep : (clearStatus s).estep = 0 := rfl
@[simp] theorem clearStatus_eindex : (clearStatus s).eindex = 0 := rfl
@[simp] theorem clearStatus_failmask : (clearStatus s).failmask = s.failmask := rfl
@[simp] theorem clearStatus_fcause : (clearStatus s).fcause = s.fcause := rfl
@[simp] theorem clearStatus_rdata : (clearStatus s).rdata = s.rdata := rfl
@[simp] theorem clearStatus_rstLow : (clearStatus s).rstLow = s.rstLow := rfl
@[simp] theorem clearStatus_seu : (clearStatus s).seu = s.seu := rfl
@[simp] theorem clearStatus_agenda : (clearStatus s).agenda = s.agenda := rfl
@[simp] theorem clearStatus_free : (clearStatus s).free = s.free := rfl

end

/-! ## `setCmderr` -/

section
variable (s : State)

@[simp] theorem setCmderr_variant : (setCmderr s).variant = s.variant := rfl
@[simp] theorem setCmderr_recheck : (setCmderr s).recheck = s.recheck := rfl
@[simp] theorem setCmderr_S : (setCmderr s).S = s.S := rfl
@[simp] theorem setCmderr_pcode : (setCmderr s).pcode = s.pcode := rfl
@[simp] theorem setCmderr_rk : (setCmderr s).rk = s.rk := rfl
@[simp] theorem setCmderr_mode : (setCmderr s).mode = s.mode := rfl
@[simp] theorem setCmderr_top : (setCmderr s).top = s.top := rfl
@[simp] theorem setCmderr_idx : (setCmderr s).idx = s.idx := rfl
@[simp] theorem setCmderr_done : (setCmderr s).done = s.done := rfl
@[simp] theorem setCmderr_corrected : (setCmderr s).corrected = s.corrected := rfl
@[simp] theorem setCmderr_cmderr : (setCmderr s).cmderr = true := rfl
@[simp] theorem setCmderr_lastdiff : (setCmderr s).lastdiff = s.lastdiff := rfl
@[simp] theorem setCmderr_lastcorr : (setCmderr s).lastcorr = s.lastcorr := rfl
@[simp] theorem setCmderr_unrecmask : (setCmderr s).unrecmask = s.unrecmask := rfl
@[simp] theorem setCmderr_estep : (setCmderr s).estep = s.estep := rfl
@[simp] theorem setCmderr_eindex : (setCmderr s).eindex = s.eindex := rfl
@[simp] theorem setCmderr_failmask : (setCmderr s).failmask = s.failmask := rfl
@[simp] theorem setCmderr_fcause : (setCmderr s).fcause = s.fcause := rfl
@[simp] theorem setCmderr_rdata : (setCmderr s).rdata = s.rdata := rfl
@[simp] theorem setCmderr_rstLow : (setCmderr s).rstLow = s.rstLow := rfl
@[simp] theorem setCmderr_seu : (setCmderr s).seu = s.seu := rfl
@[simp] theorem setCmderr_agenda : (setCmderr s).agenda = s.agenda := rfl
@[simp] theorem setCmderr_free : (setCmderr s).free = s.free := rfl

end

/-! ## `acceptCommand` -/

section
variable (w : Byte) (s : State)

@[simp] theorem acceptCommand_variant : (acceptCommand w s).variant = s.variant := rfl
@[simp] theorem acceptCommand_recheck : (acceptCommand w s).recheck = s.recheck := rfl
@[simp] theorem acceptCommand_S : (acceptCommand w s).S = s.S := rfl
@[simp] theorem acceptCommand_pcode : (acceptCommand w s).pcode = s.pcode := rfl
@[simp] theorem acceptCommand_rk : (acceptCommand w s).rk = s.rk := rfl
@[simp] theorem acceptCommand_mode : (acceptCommand w s).mode = .run := rfl
@[simp] theorem acceptCommand_top : (acceptCommand w s).top = w := rfl
@[simp] theorem acceptCommand_idx : (acceptCommand w s).idx = 0 := rfl
@[simp] theorem acceptCommand_done : (acceptCommand w s).done = false := rfl
@[simp] theorem acceptCommand_corrected : (acceptCommand w s).corrected = s.corrected := rfl
@[simp] theorem acceptCommand_cmderr : (acceptCommand w s).cmderr = s.cmderr := rfl
@[simp] theorem acceptCommand_lastdiff : (acceptCommand w s).lastdiff = s.lastdiff := rfl
@[simp] theorem acceptCommand_lastcorr : (acceptCommand w s).lastcorr = s.lastcorr := rfl
@[simp] theorem acceptCommand_unrecmask : (acceptCommand w s).unrecmask = s.unrecmask := rfl
@[simp] theorem acceptCommand_estep : (acceptCommand w s).estep = s.estep := rfl
@[simp] theorem acceptCommand_eindex : (acceptCommand w s).eindex = s.eindex := rfl
@[simp] theorem acceptCommand_failmask : (acceptCommand w s).failmask = s.failmask := rfl
@[simp] theorem acceptCommand_fcause : (acceptCommand w s).fcause = s.fcause := rfl
@[simp] theorem acceptCommand_rdata : (acceptCommand w s).rdata = s.rdata := rfl
@[simp] theorem acceptCommand_rstLow : (acceptCommand w s).rstLow = s.rstLow := rfl
@[simp] theorem acceptCommand_seu : (acceptCommand w s).seu = s.seu := rfl
@[simp] theorem acceptCommand_agenda : (acceptCommand w s).agenda = s.agenda := rfl
@[simp] theorem acceptCommand_free : (acceptCommand w s).free = s.free := rfl

end

/-! ## `complete` -/

section
variable (s : State)

@[simp] theorem complete_variant : (complete s).variant = s.variant := rfl
@[simp] theorem complete_recheck : (complete s).recheck = s.recheck := rfl
@[simp] theorem complete_S : (complete s).S = s.S := rfl
@[simp] theorem complete_pcode : (complete s).pcode = s.pcode := rfl
@[simp] theorem complete_rk : (complete s).rk = s.rk := rfl
@[simp] theorem complete_mode : (complete s).mode = .idle := rfl
@[simp] theorem complete_top : (complete s).top = s.top := rfl
@[simp] theorem complete_idx : (complete s).idx = 0 := rfl
@[simp] theorem complete_done : (complete s).done = true := rfl
@[simp] theorem complete_corrected : (complete s).corrected = s.corrected := rfl
@[simp] theorem complete_cmderr : (complete s).cmderr = s.cmderr := rfl
@[simp] theorem complete_lastdiff : (complete s).lastdiff = s.lastdiff := rfl
@[simp] theorem complete_lastcorr : (complete s).lastcorr = s.lastcorr := rfl
@[simp] theorem complete_unrecmask : (complete s).unrecmask = s.unrecmask := rfl
@[simp] theorem complete_estep : (complete s).estep = s.estep := rfl
@[simp] theorem complete_eindex : (complete s).eindex = s.eindex := rfl
@[simp] theorem complete_failmask : (complete s).failmask = s.failmask := rfl
@[simp] theorem complete_fcause : (complete s).fcause = s.fcause := rfl
@[simp] theorem complete_rdata : (complete s).rdata = s.rdata := rfl
@[simp] theorem complete_rstLow : (complete s).rstLow = s.rstLow := rfl
@[simp] theorem complete_seu : (complete s).seu = s.seu := rfl
@[simp] theorem complete_agenda : (complete s).agenda = s.agenda := rfl
@[simp] theorem complete_free : (complete s).free = s.free := rfl

end

/-! ## `raiseFault` -/

section
variable (f c u : BitVec 16) (s : State)

@[simp] theorem raiseFault_variant : (raiseFault f c u s).variant = s.variant := rfl
@[simp] theorem raiseFault_recheck : (raiseFault f c u s).recheck = s.recheck := rfl
@[simp] theorem raiseFault_S : (raiseFault f c u s).S = s.S := rfl
@[simp] theorem raiseFault_pcode : (raiseFault f c u s).pcode = s.pcode := rfl
@[simp] theorem raiseFault_rk : (raiseFault f c u s).rk = s.rk := rfl
@[simp] theorem raiseFault_mode : (raiseFault f c u s).mode = .fault := rfl
@[simp] theorem raiseFault_top : (raiseFault f c u s).top = s.top := rfl
@[simp] theorem raiseFault_idx : (raiseFault f c u s).idx = s.idx := rfl
@[simp] theorem raiseFault_done : (raiseFault f c u s).done = false := rfl
@[simp] theorem raiseFault_corrected : (raiseFault f c u s).corrected = s.corrected := rfl
@[simp] theorem raiseFault_cmderr : (raiseFault f c u s).cmderr = s.cmderr := rfl
@[simp] theorem raiseFault_lastdiff : (raiseFault f c u s).lastdiff = s.lastdiff := rfl
@[simp] theorem raiseFault_lastcorr : (raiseFault f c u s).lastcorr = s.lastcorr := rfl
@[simp] theorem raiseFault_unrecmask : (raiseFault f c u s).unrecmask = s.unrecmask := rfl
@[simp] theorem raiseFault_estep : (raiseFault f c u s).estep = s.estep := rfl
@[simp] theorem raiseFault_eindex : (raiseFault f c u s).eindex = s.eindex := rfl
@[simp] theorem raiseFault_failmask : (raiseFault f c u s).failmask = f := rfl
@[simp] theorem raiseFault_fcause : (raiseFault f c u s).fcause = fcauseOf f c u := rfl
@[simp] theorem raiseFault_rdata : (raiseFault f c u s).rdata = s.rdata := rfl
@[simp] theorem raiseFault_rstLow : (raiseFault f c u s).rstLow = s.rstLow := rfl
@[simp] theorem raiseFault_seu : (raiseFault f c u s).seu = s.seu := rfl
@[simp] theorem raiseFault_agenda : (raiseFault f c u s).agenda = s.agenda := rfl
@[simp] theorem raiseFault_free : (raiseFault f c u s).free = s.free := rfl

end

/-! ## `guardedPhases` -/

section
variable (p : Lanes Byte → Lanes Nibble → Lanes Nibble) (t : Lanes Byte → Lanes Byte) (s : State)

@[simp] theorem guardedPhases_variant : (guardedPhases p t s).variant = s.variant := rfl
@[simp] theorem guardedPhases_recheck : (guardedPhases p t s).recheck = s.recheck := rfl
@[simp] theorem guardedPhases_S : (guardedPhases p t s).S = (t (s.S.xor s.seu.a)).xor s.seu.b := rfl
@[simp] theorem guardedPhases_pcode :
    (guardedPhases p t s).pcode = (p s.S s.pcode).xor s.seu.c := rfl
@[simp] theorem guardedPhases_rk : (guardedPhases p t s).rk = s.rk := rfl
@[simp] theorem guardedPhases_mode : (guardedPhases p t s).mode = s.mode := rfl
@[simp] theorem guardedPhases_top : (guardedPhases p t s).top = s.top := rfl
@[simp] theorem guardedPhases_idx : (guardedPhases p t s).idx = s.idx := rfl
@[simp] theorem guardedPhases_done : (guardedPhases p t s).done = s.done := rfl
@[simp] theorem guardedPhases_corrected : (guardedPhases p t s).corrected = s.corrected := rfl
@[simp] theorem guardedPhases_cmderr : (guardedPhases p t s).cmderr = s.cmderr := rfl
@[simp] theorem guardedPhases_lastdiff : (guardedPhases p t s).lastdiff = s.lastdiff := rfl
@[simp] theorem guardedPhases_lastcorr : (guardedPhases p t s).lastcorr = s.lastcorr := rfl
@[simp] theorem guardedPhases_unrecmask : (guardedPhases p t s).unrecmask = s.unrecmask := rfl
@[simp] theorem guardedPhases_estep : (guardedPhases p t s).estep = s.estep := rfl
@[simp] theorem guardedPhases_eindex : (guardedPhases p t s).eindex = s.eindex := rfl
@[simp] theorem guardedPhases_failmask : (guardedPhases p t s).failmask = s.failmask := rfl
@[simp] theorem guardedPhases_fcause : (guardedPhases p t s).fcause = s.fcause := rfl
@[simp] theorem guardedPhases_rdata : (guardedPhases p t s).rdata = s.rdata := rfl
@[simp] theorem guardedPhases_rstLow : (guardedPhases p t s).rstLow = s.rstLow := rfl
@[simp] theorem guardedPhases_seu : (guardedPhases p t s).seu = s.seu := rfl
@[simp] theorem guardedPhases_agenda : (guardedPhases p t s).agenda = s.agenda := rfl
@[simp] theorem guardedPhases_free : (guardedPhases p t s).free = s.free := rfl

end

/-! ## `resetEvent`: State, PCODE and RK are free values, so no value of theirs is stated -/

section
variable (s : State)

@[simp] theorem resetEvent_variant : (resetEvent s).variant = s.variant := rfl
@[simp] theorem resetEvent_recheck : (resetEvent s).recheck = s.recheck := rfl
@[simp] theorem resetEvent_mode : (resetEvent s).mode = .idle := rfl
@[simp] theorem resetEvent_top : (resetEvent s).top = 0 := rfl
@[simp] theorem resetEvent_idx : (resetEvent s).idx = 0 := rfl
@[simp] theorem resetEvent_done : (resetEvent s).done = false := rfl
@[simp] theorem resetEvent_corrected : (resetEvent s).corrected = false := rfl
@[simp] theorem resetEvent_cmderr : (resetEvent s).cmderr = false := rfl
@[simp] theorem resetEvent_lastdiff : (resetEvent s).lastdiff = .fill 0 := rfl
@[simp] theorem resetEvent_lastcorr : (resetEvent s).lastcorr = 0 := rfl
@[simp] theorem resetEvent_unrecmask : (resetEvent s).unrecmask = 0 := rfl
@[simp] theorem resetEvent_estep : (resetEvent s).estep = 0 := rfl
@[simp] theorem resetEvent_eindex : (resetEvent s).eindex = 0 := rfl
@[simp] theorem resetEvent_failmask : (resetEvent s).failmask = 0 := rfl
@[simp] theorem resetEvent_fcause : (resetEvent s).fcause = 0 := rfl
@[simp] theorem resetEvent_rdata : (resetEvent s).rdata = s.rdata := rfl
@[simp] theorem resetEvent_rstLow : (resetEvent s).rstLow = s.rstLow := rfl
@[simp] theorem resetEvent_seu : (resetEvent s).seu = .none := rfl
@[simp] theorem resetEvent_agenda : (resetEvent s).agenda = s.agenda := rfl
@[simp] theorem resetEvent_free : (resetEvent s).free = s.free + 16 + s.variant.rkBytes := rfl

end

end Sys2Proof.Machine
end

