-- ==== Sys2Proof/Laws/Verify.lean ====
section
/-! SUPPORT. The verification phase: a step with no syndrome changes nothing, an event step leaves the
record and then passes or faults; and the frame of both (43_verify_correct.md R147, R148, R150). -/
namespace Sys2Proof.Machine

@[simp] theorem get_codes (S : Lanes Byte) (n : Fin 16) : (codes S).get n = codeOf (S.get n) := by
  simp [codes]

@[simp] theorem get_syndromes (S : Lanes Byte) (p : Lanes Nibble) (n : Fin 16) :
    (syndromes S p).get n = codeOf (S.get n) ^^^ p.get n := by
  simp [syndromes]

@[simp] theorem correctByte_zero (b : Byte) : correctByte b 0#4 = b := rfl

/-- Where State and PCODE agree, there is no syndrome. -/
theorem syndromes_codes (S : Lanes Byte) : syndromes S (codes S) = .fill 0 :=
  Lanes.ext_get fun n => by simp

/-- A nonzero syndrome is either in the table or not. -/
theorem nonzero_iff_matched_or_unmatched (d : Nibble) :
    (d != 0) = ((d != 0 && (synDec d).isSome) || (d != 0 && (synDec d).isNone)) := by
  cases h : synDec d <;> simp

/-- The lanes with a table-matched or an unmatched syndrome are the lanes with a nonzero one. -/
theorem masks_eq_zero_iff (diff : Lanes Nibble) :
    maskOf (matchedLanes diff) ||| maskOf (unmatchedLanes diff) = 0 ↔ ∀ n, diff.get n = 0 := by
  constructor
  · intro h n
    have := congrArg (fun x => BitVec.getLsbD x n.val) h
    simp only [BitVec.getLsbD_or, getLsbD_maskOf, matchedLanes, unmatchedLanes, Lanes.get_map,
      ← nonzero_iff_matched_or_unmatched] at this
    simpa using this
  · intro h
    refine mask_ext fun n => ?_
    rw [BitVec.getLsbD_or, getLsbD_maskOf, getLsbD_maskOf]
    simp [matchedLanes, unmatchedLanes, h]

/-- No syndrome: the phase passes and changes nothing. -/
theorem verifyCorrect_quiet (op : Byte) (s : State)
    (h : ∀ n, (syndromes s.S s.pcode).get n = 0) : verifyCorrect op s = .ok s := by
  have hd : syndromes s.S s.pcode = .fill 0 := Lanes.ext_get fun n => by rw [h, Lanes.get_fill]
  have hc : Lanes.zipWith correctByte s.S (.fill 0) = s.S := Lanes.ext_get fun n => by simp
  have hm := (masks_eq_zero_iff (Lanes.fill 0)).2 fun n => Lanes.get_fill 0 n
  have hf : maskOf ((recheckSyndromes s.recheck (.fill 0) s.S s.pcode).map (· != 0)) = 0 := by
    refine (maskOf_eq_zero_iff _).2 fun n => ?_
    unfold recheckSyndromes
    cases s.recheck <;> simp [hd]
  unfold verifyCorrect
  simp only [hd, hc, hm, hf, if_true]

/-- The state an event step leaves before its verdict: the flips and the record. -/
def eventState (op : Byte) (s : State) : State :=
  recordEvent op (syndromes s.S s.pcode) (maskOf (matchedLanes (syndromes s.S s.pcode)))
    (maskOf (unmatchedLanes (syndromes s.S s.pcode)))
    { s with S := Lanes.zipWith correctByte s.S (syndromes s.S s.pcode) }

/-- The bytes that fail the re-check of a step. -/
def failMask (s : State) : BitVec 16 :=
  maskOf ((recheckSyndromes s.recheck (syndromes s.S s.pcode)
    (Lanes.zipWith correctByte s.S (syndromes s.S s.pcode)) s.pcode).map (· != 0))

/-- Some syndrome: the phase leaves the event record, and passes or raises the Fault. -/
theorem verifyCorrect_event (op : Byte) (s : State)
    (h : ∃ n, (syndromes s.S s.pcode).get n ≠ 0) :
    verifyCorrect op s =
      if failMask s = 0 then .ok (eventState op s)
      else .raised (raiseFault (failMask s) (eventState op s).lastcorr (eventState op s).unrecmask
        (eventState op s)) := by
  have hm : ¬ maskOf (matchedLanes (syndromes s.S s.pcode)) |||
      maskOf (unmatchedLanes (syndromes s.S s.pcode)) = 0 := fun e => by
    obtain ⟨n, hn⟩ := h
    exact hn ((masks_eq_zero_iff _).1 e n)
  unfold verifyCorrect failMask eventState
  simp only [hm, if_false]
  rfl

/-- A byte that fails the re-check had a nonzero syndrome, so no quiet step faults. -/
theorem failMask_of_quiet (s : State) (n : Fin 16) (h : (syndromes s.S s.pcode).get n = 0) :
    (failMask s).getLsbD n.val = false := by
  simp only [failMask, getLsbD_maskOf, Lanes.get_map]
  rw [get_syndromes] at h
  unfold recheckSyndromes
  cases s.recheck <;> simp [h]

/-- Everything the phase can do: nothing; or the record and the flips, without or with the Fault. -/
theorem verifyCorrect_cases (op : Byte) (s : State) :
    ((∀ n, (syndromes s.S s.pcode).get n = 0) ∧ verifyCorrect op s = .ok s) ∨
    ((∃ n, (syndromes s.S s.pcode).get n ≠ 0) ∧ failMask s = 0 ∧
      verifyCorrect op s = .ok (eventState op s)) ∨
    ((∃ n, (syndromes s.S s.pcode).get n ≠ 0) ∧ failMask s ≠ 0 ∧
      verifyCorrect op s = .raised (raiseFault (failMask s) (eventState op s).lastcorr
        (eventState op s).unrecmask (eventState op s))) := by
  by_cases h : ∀ n, (syndromes s.S s.pcode).get n = 0
  · exact .inl ⟨h, verifyCorrect_quiet op s h⟩
  · have h' : ∃ n, (syndromes s.S s.pcode).get n ≠ 0 := by simpa using h
    by_cases hf : failMask s = 0
    · exact .inr (.inl ⟨h', hf, by rw [verifyCorrect_event op s h', if_pos hf]⟩)
    · exact .inr (.inr ⟨h', hf, by rw [verifyCorrect_event op s h', if_neg hf]⟩)

end Sys2Proof.Machine
end

