-- ==== Sys2Proof/Laws/Driver.lean ====
section
/-! SUPPORT. The sequencer: every meaning is one step over the command's list, and what such a step can
answer (45_driver.md R175). -/
namespace Sys2Proof.Machine

/-- Every meaning is a sequencer step over its command's list. -/
theorem exec_eq_runList (i : Instr) (s : State) : exec i s = runList (microList s.variant i) s := by
  cases i <;> rfl

/-- A sequencer step at a position of the list. -/
theorem exec_of_entry {i : Instr} {m : MicroOp} {s : State}
    (h : (microList s.variant i)[s.idx.toNat]? = some m) :
    exec i s = .next (advance (microList s.variant i).length (micro m s)) := by
  rw [exec_eq_runList, runList, h]

/-- A step that answers a next state ran the entry at its position. -/
theorem exec_next_inv {i : Instr} {s t : State} (h : exec i s = .next t) :
    ∃ m, (microList s.variant i)[s.idx.toNat]? = some m ∧
      t = advance (microList s.variant i).length (micro m s) := by
  rw [exec_eq_runList, runList] at h
  cases hm : (microList s.variant i)[s.idx.toNat]? with
  | none => simp [hm] at h
  | some m =>
    simp only [hm] at h
    cases h
    exact ⟨m, rfl, rfl⟩

/-- A micro-operation that raised the Fault ends the step in its state. -/
@[simp] theorem advance_raised (len : Nat) (s : State) : advance len (.raised s) = s := rfl

/-- At the last entry of its list a command completes. -/
theorem advance_ok_last {len : Nat} {s : State} (h : s.idx.toNat + 1 = len) :
    advance len (.ok s) = complete s :=
  if_pos h

/-- Before the last entry of its list a command goes to the next one. -/
theorem advance_ok_inside {len : Nat} {s : State} (h : s.idx.toNat + 1 ≠ len) :
    advance len (.ok s) = { s with idx := s.idx + 1 } :=
  if_neg h

/-- No list is empty. -/
theorem microList_length_pos (v : Variant) (i : Instr) : 0 < (microList v i).length := by
  cases v <;> cases i <;>
    simp [microList, encProg, decProg, encRounds, encRound, decRounds, decRound, Variant.nr]

/-- No list is longer than 71 entries (10_state.md R23). -/
theorem microList_length_le (v : Variant) (i : Instr) : (microList v i).length ≤ 71 := by
  cases v <;> cases i <;>
    simp [microList, encProg, decProg, encRounds, encRound, decRounds, decRound, Variant.nr]

/-- After a micro-operation that ended without a Fault and left mode, position and DONE, the sequencer
goes on. -/
theorem advance_ok_wentOn {i : Instr} {s t : State} (h : s.idx.toNat < (microList s.variant i).length)
    (hi : t.idx = s.idx) (hm : t.mode = s.mode) (hd : t.done = s.done) :
    WentOn i s (advance (microList s.variant i).length (.ok t)) := by
  by_cases hl : t.idx.toNat + 1 = (microList s.variant i).length
  · rw [advance_ok_last hl]
    exact .inl ⟨hi ▸ hl, rfl, rfl, rfl⟩
  · rw [advance_ok_inside hl]
    have h71 := microList_length_le s.variant i
    rw [hi] at hl
    refine .inr ⟨by omega, hm, ?_, hd⟩
    simp only [hi, BitVec.toNat_add]
    simp
    omega

end Sys2Proof.Machine
end

