-- ==== Sys2Proof/Laws/Guarded.lean ====
section
/-! SUPPORT. What the verification phase and each micro-operation leave unchanged, whatever the upsets
(43_verify_correct.md R145 to R148, 60_exceptions.md R204). -/
namespace Sys2Proof.Machine

/-- GARK's word is `0x50 + k` (30_encoding.md R82). -/
theorem encode_gark (k : BitVec 4) : encode (.gark k) = 0x50 + k.setWidth 8 := by
  revert k; decide

/-- The cause bits as a sum of the two causes. -/
theorem fcauseOf_eq (fail corr unrec : BitVec 16) :
    fcauseOf fail corr unrec =
      (if fail &&& unrec = 0 then 0 else 2) ||| (if fail &&& corr = 0 then 0 else 1) := by
  have bits : ∀ p q : Bool, (0#6 ++ BitVec.ofBool p ++ BitVec.ofBool q) =
      ((if p then 2 else 0) ||| (if q then 1 else 0) : BitVec 8) := by decide
  rw [fcauseOf, bits]
  simp

/-- The syndrome of a lane. -/
theorem get_syndromes_eq (s : State) (n : Fin 16) : (syndromes s.S s.pcode).get n = syndromeAt s n := by
  simp [syndromeAt]

/-- The bytes an event step leaves. -/
theorem eventState_get (op : Byte) (s : State) (n : Fin 16) :
    (eventState op s).S.get n = correctByte (s.S.get n) (syndromeAt s n) := by
  simp [eventState, syndromeAt]

/-- Everything the verification phase leaves unchanged, and what it may leave instead. -/
theorem verifyCorrect_frame (op : Byte) (s : State) :
    ∃ t,
      (verifyCorrect op s = .ok t ∧ t.mode = s.mode ∧ t.done = s.done ∧ t.failmask = s.failmask ∧
          t.fcause = s.fcause ∨
        verifyCorrect op s = .raised t ∧ t.mode = .fault ∧ t.done = false ∧ t.failmask ≠ 0 ∧
          t.fcause = fcauseOf t.failmask t.lastcorr t.unrecmask) ∧
      t.variant = s.variant ∧ t.recheck = s.recheck ∧ t.rk = s.rk ∧ t.top = s.top ∧ t.idx = s.idx ∧
      t.cmderr = s.cmderr ∧ t.rdata = s.rdata ∧ t.seu = s.seu ∧ t.agenda = s.agenda ∧
      t.free = s.free ∧ t.rstLow = s.rstLow ∧ t.pcode = s.pcode ∧
      ((t.lastdiff = s.lastdiff ∧ t.lastcorr = s.lastcorr ∧ t.unrecmask = s.unrecmask ∧
          t.estep = s.estep ∧ t.eindex = s.eindex ∧ t.corrected = s.corrected) ∨
        ((∃ n, t.lastdiff.get n ≠ 0) ∧ t.estep = op ∧ t.eindex = s.idx ∧
          t.corrected = (s.corrected || t.lastcorr != 0))) := by
  rcases verifyCorrect_cases op s with ⟨h, e⟩ | ⟨h, hf, e⟩ | ⟨h, hf, e⟩
  · exact ⟨s, .inl ⟨e, rfl, rfl, rfl, rfl⟩, rfl, rfl, rfl, rfl, rfl, rfl, rfl, rfl, rfl, rfl, rfl, rfl,
      .inl ⟨rfl, rfl, rfl, rfl, rfl, rfl⟩⟩
  · exact ⟨_, .inl ⟨e, rfl, rfl, rfl, rfl⟩, rfl, rfl, rfl, rfl, rfl, rfl, rfl, rfl, rfl, rfl, rfl, rfl,
      .inr ⟨h, rfl, rfl, rfl⟩⟩
  · exact ⟨_, .inr ⟨e, rfl, rfl, hf, rfl⟩, rfl, rfl, rfl, rfl, rfl, rfl, rfl, rfl, rfl, rfl, rfl, rfl,
      .inr ⟨h, rfl, rfl, rfl⟩⟩

/-- A micro-operation without a guard has the effect of its rule and takes no mask. -/
theorem micro_unguarded {m : MicroOp} {s : State} (h : guardedTransform s.rk m.instr = none) :
    micro m s = .ok (faultFree s m) := by
  cases m <;> simp [guardedTransform, MicroOp.instr] at h <;> rfl

/-- SBOXHAM is the code of the S-box image (42_prediction.md R134). -/
theorem sboxHam_eq (x : Byte) : sboxHam x = codeOf (sbox x) := by
  revert x; decide

/-- A guarded micro-operation is a guarded step with its own word, prediction and transform. -/
theorem micro_guarded {m : MicroOp} {s : State} {f : Lanes Byte → Lanes Byte}
    (h : guardedTransform s.rk m.instr = some f) :
    ∃ predict, predict s.S s.pcode = predictedCode s m ∧
      micro m s = guardedStep (encode m.instr) predict f s := by
  cases m <;> simp [guardedTransform, MicroOp.instr] at h
  · subst h
    exact ⟨predictSub, Lanes.ext_get fun n => by simp [predictSub, predictedCode, subBytes, sboxHam_eq],
      rfl⟩
  · subst h; exact ⟨predictShift, rfl, rfl⟩
  · subst h; exact ⟨predictMix, rfl, rfl⟩
  · rename_i k
    subst h
    exact ⟨predictArk s.rk k.toNat, rfl, by rw [MicroOp.instr, encode_gark]; rfl⟩

/-- Everything a micro-operation leaves unchanged, whatever the upsets. -/
theorem micro_frame (m : MicroOp) (s : State) :
    ∃ t,
      (micro m s = .ok t ∧ t.mode = s.mode ∧ t.done = s.done ∧ t.failmask = s.failmask ∧
          t.fcause = s.fcause ∨
        micro m s = .raised t ∧ t.mode = .fault ∧ t.done = false ∧ t.failmask ≠ 0 ∧
          t.fcause = fcauseOf t.failmask t.lastcorr t.unrecmask) ∧
      t.variant = s.variant ∧ t.recheck = s.recheck ∧ t.rk = s.rk ∧ t.top = s.top ∧ t.idx = s.idx ∧
      t.rdata = s.rdata ∧ t.seu = s.seu ∧ t.agenda = s.agenda ∧ t.free = s.free ∧
      t.rstLow = s.rstLow := by
  cases h : guardedTransform s.rk m.instr with
  | none =>
    refine ⟨faultFree s m, .inl ⟨micro_unguarded h, ?_⟩, ?_⟩
    · cases m <;> exact ⟨rfl, rfl, rfl, rfl⟩
    · cases m <;> exact ⟨rfl, rfl, rfl, rfl, rfl, rfl, rfl, rfl, rfl, rfl⟩
  | some f =>
    obtain ⟨p, -, hp⟩ := micro_guarded h
    obtain ⟨t, hv, h1, h2, h3, h4, h5, _, h7, h8, h9, h10, h11, _⟩ :=
      verifyCorrect_frame (encode m.instr) (guardedPhases p f s)
    rw [hp]
    exact ⟨t, hv, h1, h2, h3, h4, h5, h7, h8, h9, h10, h11⟩

end Sys2Proof.Machine
end

