-- ==== Sys2Proof/Laws/Memory.lean ====
section
/-! SUPPORT. The round-key memory: a read after a write, and that every operation keeps the canonical
form and the range of the listed addresses. -/
namespace Sys2Proof.Machine

@[simp] theorem Memory.read_nil (a : Nat) : Memory.read [] a = Memory.unlisted := rfl

/-- A cell whose address is not listed below it, read back. -/
theorem Memory.read_cons (a b : Nat) (v : Byte) (m : Memory) (h : ∀ c ∈ m, c.1 ≠ a) :
    Memory.read (Memory.cons a v m) b = if b = a then v else Memory.read m b := by
  have hread : ∀ m : Memory, (∀ c ∈ m, c.1 ≠ a) → Memory.read m a = Memory.unlisted := by
    intro m
    induction m with
    | nil => intro _; rfl
    | cons c m ih =>
      intro h
      obtain ⟨x, y⟩ := c
      simp only [List.mem_cons, forall_eq_or_imp] at h
      simp only [Memory.read, h.1, if_false]
      exact ih h.2
  unfold Memory.cons
  split
  · rename_i hv
    split
    · rename_i hb
      rw [hb, hread m h, hv]
    · rfl
  · simp only [Memory.read]
    simp only [eq_comm]

/-- Reading a memory in canonical form after a write. -/
theorem Memory.read_write (m : Memory) (hm : Memory.wf m) (a b : Nat) (v : Byte) :
    Memory.read (Memory.write m a v) b = if b = a then v else Memory.read m b := by
  induction m with
  | nil => exact Memory.read_cons a b v [] (by simp)
  | cons c m ih =>
    obtain ⟨x, y⟩ := c
    obtain ⟨hs, hv⟩ := hm
    rw [List.pairwise_cons] at hs
    have hm' : Memory.wf m := ⟨hs.2, fun c hc => hv c (List.mem_cons_of_mem _ hc)⟩
    simp only [Memory.write]
    split
    · rename_i hax
      refine Memory.read_cons a b v _ fun c hc => ?_
      rcases List.mem_cons.1 hc with rfl | hc
      · simp only; omega
      · have := hs.1 c hc
        simp only at this; omega
    · split
      · rename_i hax
        subst hax
        rw [Memory.read_cons a b v m fun c hc => by have := hs.1 c hc; simp only at this; omega]
        by_cases hb : b = a
        · simp [hb]
        · have : a ≠ b := fun h => hb h.symm
          simp [Memory.read, hb, this]
      · rename_i h1 h2
        simp only [Memory.read]
        rw [ih hm']
        by_cases hb : x = b
        · have : b ≠ a := by omega
          simp [hb, this]
        · simp [hb]

/-- The addresses a write can list: those listed before, and its own. -/
theorem Memory.mem_write {m : Memory} {a : Nat} {v : Byte} {c : Host.Cell}
    (hc : c ∈ Memory.write m a v) : c ∈ m ∨ c = (a, v) := by
  induction m with
  | nil =>
    simp only [Memory.write, Memory.cons] at hc
    split at hc <;> simp_all
  | cons d m ih =>
    obtain ⟨x, y⟩ := d
    simp only [Memory.write, Memory.cons] at hc
    split at hc
    · split at hc <;> simp_all
      tauto
    · split at hc
      · split at hc <;> simp_all
        tauto
      · rcases List.mem_cons.1 hc with rfl | hc
        · simp
        · rcases ih hc with h | h <;> simp_all

/-- A write keeps the canonical form. -/
theorem Memory.wf_write {m : Memory} (hm : Memory.wf m) (a : Nat) (v : Byte) :
    Memory.wf (Memory.write m a v) := by
  induction m with
  | nil =>
    simp only [Memory.write, Memory.cons]
    split <;> simp_all [Memory.wf]
  | cons d m ih =>
    obtain ⟨x, y⟩ := d
    have hs := List.pairwise_cons.1 hm.1
    have hm' : Memory.wf m := ⟨hs.2, fun c hc => hm.2 c (List.mem_cons_of_mem _ hc)⟩
    simp only [Memory.write, Memory.cons]
    split
    · rename_i hax
      split
      · exact hm
      · rename_i hv
        refine ⟨List.pairwise_cons.2 ⟨fun c hc => ?_, hm.1⟩, fun c hc => ?_⟩
        · rcases List.mem_cons.1 hc with rfl | hc
          · exact hax
          · exact lt_trans hax (hs.1 c hc)
        · rcases List.mem_cons.1 hc with rfl | hc
          · exact hv
          · exact hm.2 c hc
    · split
      · rename_i hax
        subst hax
        split
        · exact hm'
        · rename_i hv
          refine ⟨List.pairwise_cons.2 ⟨hs.1, hs.2⟩, fun c hc => ?_⟩
          rcases List.mem_cons.1 hc with rfl | hc
          · exact hv
          · exact hm'.2 c hc
      · have ih' := ih hm'
        refine ⟨List.pairwise_cons.2 ⟨fun c hc => ?_, ih'.1⟩, fun c hc => ?_⟩
        · rcases Memory.mem_write hc with h | h
          · exact hs.1 c h
          · subst h; simp only; omega
        · rcases List.mem_cons.1 hc with rfl | hc
          · exact hm.2 _ List.mem_cons_self
          · exact ih'.2 c hc

/-- The memory of a reset event is in canonical form. -/
theorem Memory.wf_fill (f : Nat → Byte) (n : Nat) : Memory.wf (Memory.fill f n) := by
  induction n with
  | zero => simp [Memory.fill, Memory.wf]
  | succ n ih => exact Memory.wf_write ih n (f n)

/-- The memory of a reset event lists only addresses below its size. -/
theorem Memory.fill_inRange (f : Nat → Byte) (n : Nat) : ∀ c ∈ Memory.fill f n, c.1 < n := by
  induction n with
  | zero => simp [Memory.fill]
  | succ n ih =>
    intro c hc
    rcases Memory.mem_write hc with h | h
    · exact Nat.lt_succ_of_lt (ih c h)
    · subst h; exact Nat.lt_succ_self n

end Sys2Proof.Machine
end

