-- ==== Sys2Proof/Laws/PerInstr.lean ====
section
/-! SUPPORT. The statement about every instruction as syntax: the two fields of its word
(30_encoding.md R80, R82, R84). -/
namespace Sys2Proof.Laws.EncodeFields

/-- The operation code of an instruction (30_encoding.md R82). -/
def opCode : Instr → BitVec 4
  | .nop => 0x0
  | .seed => 0x1
  | .gsub => 0x2
  | .gshr => 0x3
  | .gmix => 0x4
  | .gark _ => 0x5
  | .ishr => 0x6
  | .isub => 0x7
  | .imix => 0x8
  | .enc => 0x9
  | .dec => 0xA
  | .clrstat => 0xB

/-- The `op` field of the word is the operation's code; the `arg` field is GARK's round number and 0
for every other operation; and the word is above 0xBF for none. -/
def Statement (i : Instr) : Prop :=
  opField (encode i) = opCode i ∧
    (argField (encode i) = 0 ∨ i = .gark (argField (encode i))) ∧
    (encode i).toNat < 0xC0

theorem nop : Statement .nop := by unfold Statement; decide
theorem seed : Statement .seed := by unfold Statement; decide
theorem gsub : Statement .gsub := by unfold Statement; decide
theorem gshr : Statement .gshr := by unfold Statement; decide
theorem gmix : Statement .gmix := by unfold Statement; decide
theorem gark (k : BitVec 4) : Statement (.gark k) := by
  unfold Statement; revert k; decide
theorem ishr : Statement .ishr := by unfold Statement; decide
theorem isub : Statement .isub := by unfold Statement; decide
theorem imix : Statement .imix := by unfold Statement; decide
theorem enc : Statement .enc := by unfold Statement; decide
theorem dec : Statement .dec := by unfold Statement; decide
theorem clrstat : Statement .clrstat := by unfold Statement; decide

end Sys2Proof.Laws.EncodeFields
end

