-- ==== Sys2Proof/Laws/Step.lean ====
section
/-! SUPPORT. What one step can do: the move it took and what that move did. -/
namespace Sys2Proof.Machine

/-- A CORE step that answers a next state waited, or ran the accepted command. -/
theorem coreStep_next_inv {u : Seu} {s t : State} (h : coreStep u s = .next t) :
    (s.mode ≠ .run ∧ t = s) ∨
    (s.mode = .run ∧ ∃ i, decode s.variant s.top = .instr i ∧ exec i { s with seu := u } = .next t) := by
  unfold coreStep at h
  cases hm : s.mode with
  | idle => simp only [hm] at h; cases h; exact .inl ⟨by simp, rfl⟩
  | fault => simp only [hm] at h; cases h; exact .inl ⟨by simp, rfl⟩
  | run =>
    simp only [hm] at h
    cases hd : decode s.variant s.top with
    | instr i => simp only [hd] at h; exact .inr ⟨rfl, i, rfl, h⟩
    | illegal w => simp [hd] at h

/-- With `rst_n` low, a step is the next move in reset. -/
theorem step_of_rstLow {s : State} (h : s.rstLow = true) : step s = .next (stepInReset s) := by
  simp [step, h]

/-- With `rst_n` high, a step is the next move of an agent. -/
theorem step_of_rstHigh {s : State} (h : s.rstLow = false) : step s = stepRunning s := by
  simp [step, h]

/-- A read of a block in mode IDLE shows the register's byte and changes nothing else. -/
theorem hostRead_idle {a : BitVec 10} {s : State} (h : s.mode = .idle) :
    hostRead a s = { s with rdata := regByte s (regAt s.variant a) } := by
  simp [hostRead, h]

/-- A move in reset leaves the block as the reset event does; only the two pins may differ. -/
theorem moveInReset_frame (m : Move) (s : State) :
    ∃ b l, moveInReset m s = { resetEvent s with rdata := b, rstLow := l } := by
  cases m with
  | read a =>
    exact ⟨regByte (resetEvent s) (regAt s.variant a), s.rstLow, hostRead_idle (resetEvent_mode s)⟩
  | write a v => exact ⟨s.rdata, s.rstLow, rfl⟩
  | core u => exact ⟨s.rdata, s.rstLow, rfl⟩
  | rstFall => exact ⟨s.rdata, true, rfl⟩
  | rstRise => exact ⟨s.rdata, false, rfl⟩

/-- A step that applies reset, or that comes while reset is applied. -/
theorem step_of_resets {s : State} (h : Resets s) :
    ∃ b l, step s = .next { resetEvent { s with agenda := s.agenda.tail } with
      rdata := b, rstLow := l } := by
  by_cases hl : s.rstLow = true
  · rw [step_of_rstLow hl, stepInReset]
    split
    · rename_i ha
      have e : { s with agenda := s.agenda.tail } = s := by
        rw [show s.agenda.tail = s.agenda by rw [ha]; rfl]
      exact ⟨s.rdata, s.rstLow, by rw [e]; rfl⟩
    · rename_i m rest ha
      obtain ⟨b, l, e⟩ := moveInReset_frame m { s with agenda := rest }
      exact ⟨b, l, by rw [e, ha, List.tail_cons]⟩
  · obtain ⟨rest, ha⟩ := h.resolve_left hl
    exact ⟨s.rdata, true, by rw [step_of_rstHigh (by simpa using hl), stepRunning, ha]; rfl⟩

/-- Every step that answers a next state is one of these. -/
theorem step_next_inv {s t : State} (h : step s = .next t) :
    (Resets s ∧ ∃ b l,
      t = { resetEvent { s with agenda := s.agenda.tail } with rdata := b, rstLow := l }) ∨
    s.rstLow = false ∧
      ((s.agenda = [] ∧ coreStep .none s = .next t) ∨
      (∃ u rest, s.agenda = .core u :: rest ∧ coreStep u { s with agenda := rest } = .next t) ∨
      (∃ a v rest, s.agenda = .write a v :: rest ∧ t = hostWrite a v { s with agenda := rest }) ∨
      (∃ a rest, s.agenda = .read a :: rest ∧ t = hostRead a { s with agenda := rest }) ∨
      (∃ rest, s.agenda = .rstRise :: rest ∧ t = { s with agenda := rest })) := by
  by_cases hr : Resets s
  · obtain ⟨b, l, e⟩ := step_of_resets hr
    rw [e] at h
    cases h
    exact .inl ⟨hr, b, l, rfl⟩
  · have hl : s.rstLow = false := by simpa using fun hl => hr (.inl hl)
    rw [step_of_rstHigh hl] at h
    refine .inr ⟨hl, ?_⟩
    unfold stepRunning at h
    split at h
    · exact .inl ⟨‹_›, h⟩
    · exact .inr (.inl ⟨_, _, ‹_›, h⟩)
    · cases h; exact .inr (.inr (.inl ⟨_, _, _, ‹_›, rfl⟩))
    · cases h; exact .inr (.inr (.inr (.inl ⟨_, _, ‹_›, rfl⟩)))
    · exact absurd (.inr ⟨_, ‹_›⟩) hr
    · cases h; exact .inr (.inr (.inr (.inr ⟨_, ‹_›, rfl⟩)))

/-- What the reset event leaves, whatever the two pins are, is the reset state. -/
theorem resetEvent_inResetState (s : State) (b : Byte) (l : Bool) :
    InResetState { resetEvent s with rdata := b, rstLow := l } :=
  ⟨rfl, rfl, rfl, by simp [State.status, State.busy, State.faulted]; decide,
    rfl, rfl, rfl, rfl, rfl, rfl, rfl⟩

/-- A run of one more step goes through the step's next state. -/
theorem run_succ {s t : State} (k : Nat) (h : step s = .next t) :
    Host.Core.run core (k + 1) s = Host.Core.run core k t := by
  have h' : core.step s = .next t := h
  simp only [Host.Core.run, h']

/-- A run of `k + l` steps goes through the state after `k` steps. -/
theorem run_add {s t : State} (k l : Nat) (h : Host.Core.run core k s = .next t) :
    Host.Core.run core (k + l) s = Host.Core.run core l t := by
  induction k generalizing s with
  | zero => cases h; rw [Nat.zero_add]
  | succ k ih =>
    rw [Nat.succ_add]
    simp only [Host.Core.run] at h ⊢
    cases hs : core.step s with
    | next u => rw [hs] at h; exact ih h
    | fault => rw [hs] at h; simp at h
    | refused => rw [hs] at h; simp at h

/-- Every address names a State byte, CMD, a byte of RK inside the instance's memory, or a register
whose write is ignored (20_memory.md R51, R57). -/
theorem regAt_cases (v : Variant) (a : BitVec 10) :
    (∃ n : Fin 16, a.toNat = n.val ∧ regAt v a = .state n) ∨
    (a = 0x010 ∧ regAt v a = .cmd) ∨
    (∃ b, b < v.rkBytes ∧ a.toNat = 0x100 + b ∧ regAt v a = .rk b) ∨
    ((0x010 < a.toNat ∧ a.toNat < 0x100 ∨ 0x100 + v.rkBytes ≤ a.toNat) ∧
      ∀ s w, writeReg s w (regAt v a) = s) := by
  unfold regAt regOf
  split
  · exact .inl ⟨⟨a.toNat, ‹_›⟩, rfl, rfl⟩
  split
  · by_cases hc : a = 0x010
    · exact .inr (.inl ⟨hc, by subst hc; rfl⟩)
    · have hn : a.toNat ≠ 0x010 := fun h => hc (BitVec.eq_of_toNat_eq h)
      refine .inr (.inr (.inr ⟨.inl ⟨by omega, by omega⟩, fun s w => ?_⟩))
      unfold controlReg
      split <;> first | exact absurd ‹_› hn | rfl
  split
  · exact .inr (.inr (.inr ⟨.inl ⟨by omega, by omega⟩, fun s w => rfl⟩))
  split
  · exact .inr (.inr (.inr ⟨.inl ⟨by omega, by omega⟩, fun s w => rfl⟩))
  split
  · exact .inr (.inr (.inl ⟨a.toNat - 0x100, by omega, by omega, rfl⟩))
  · exact .inr (.inr (.inr ⟨by omega, fun s w => rfl⟩))

/-- What a host write does (20_memory.md R57 to R59): nothing; one State byte; one byte of RK inside
the instance's memory; an accepted command; or CMDERR alone. -/
theorem hostWrite_cases (a : BitVec 10) (v : Byte) (s : State) :
    hostWrite a v s = s ∨
    (s.mode = .idle ∧ ∃ n : Fin 16, a.toNat = n.val ∧ hostWrite a v s = { s with S := s.S.set n v }) ∨
    (s.mode = .idle ∧ ∃ b, b < s.variant.rkBytes ∧ a.toNat = 0x100 + b ∧
      hostWrite a v s = { s with rk := Memory.write s.rk b v }) ∨
    (s.mode = .idle ∧ a = 0x010 ∧ ∃ i, decode s.variant v = .instr i ∧
      hostWrite a v s = acceptCommand v s) ∨
    (s.mode ≠ .fault ∧ hostWrite a v s = setCmderr s) := by
  unfold hostWrite
  split
  · rename_i hm
    rcases regAt_cases s.variant a with ⟨n, hn, hr⟩ | ⟨hc, hr⟩ | ⟨b, hb, ha, hr⟩ | ⟨-, hr⟩
    · exact .inr (.inl ⟨hm, n, hn, by rw [hr]; rfl⟩)
    · rw [hr]
      simp only [writeReg, issueCommand]
      cases hd : decode s.variant v with
      | instr i => exact .inr (.inr (.inr (.inl ⟨hm, hc, i, rfl, rfl⟩)))
      | illegal w => exact .inr (.inr (.inr (.inr ⟨by simp [hm], rfl⟩)))
    · exact .inr (.inr (.inl ⟨hm, b, hb, ha, by rw [hr]; rfl⟩))
    · exact .inl (hr s v)
  · rename_i hm
    exact .inr (.inr (.inr (.inr ⟨by simp [hm], rfl⟩)))
  · exact .inl rfl

/-- A host read changes only the pin `rdata` and the model's counter of free values. -/
theorem hostRead_frame (a : BitVec 10) (s : State) :
    ∃ b k, hostRead a s = { s with rdata := b, free := k } := by
  unfold hostRead busyRead
  cases s.mode with
  | idle => exact ⟨_, s.free, rfl⟩
  | fault => exact ⟨_, s.free, rfl⟩
  | run =>
    simp only
    split
    · exact ⟨_, s.free, rfl⟩
    · exact ⟨_, _, rfl⟩

end Sys2Proof.Machine
end

