-- ==== Sys2Proof/Tests/Slice0.lean ====
section
/-! SUPPORT. The model's own tests: the smoke test of `wellFormed`, words written out from the encoding
table, the spec's vectors (95_test_vectors.md, named in each docstring) on single steps, and for each
obligation with hypotheses a concrete state and operands that meet them. -/
set_option maxRecDepth 40000

namespace Sys2Proof.Tests
open Sys2Proof.Machine

/-! ## Helpers -/

/-- 16 bytes written as 32 hexadecimal digits, byte 0 first (R12). -/
def bytes (x : Nat) : Lanes Byte := .ofIndex fun n => BitVec.ofNat 8 (x >>> (8 * (15 - n)))

/-- 16 nibbles written as 16 hexadecimal digits, nibble 0 first (R12). -/
def nibbles (x : Nat) : Lanes Nibble := .ofIndex fun n => BitVec.ofNat 4 (x >>> (4 * (15 - n)))

/-- A round-key memory that lists round key `k` alone. -/
def roundKeyAt (k x : Nat) : Memory :=
  ((List.range 16).map fun n => (16 * k + n, BitVec.ofNat 8 (x >>> (8 * (15 - n))))).filter
    fun c => c.2 != Memory.unlisted

/-- A state whose command `i` is at position `idx` of its list. -/
def running (i : Instr) (idx : BitVec 8) (S P : Nat) : State :=
  { State.reset with S := bytes S, pcode := nibbles P, mode := .run, top := encode i, idx := idx }

/-- One byte mask at point B, on byte 5. -/
def upsetB (m : Byte) : Seu := { Seu.none with b := (Lanes.fill 0).set 5 m }

/-- The next state, when there is one. -/
def after (o : Host.Outcome State Fault Refusal) : State :=
  match o with
  | .next t => t
  | .fault _ => State.reset
  | .refused _ => State.reset

/-- The state of a raised Fault, when there is one. -/
def raisedState (r : MicroResult) : State :=
  match r with
  | .ok _ => State.reset
  | .raised t => t

/-- Whether there is a next state. -/
def completes (o : Host.Outcome State Fault Refusal) : Bool :=
  match o with
  | .next _ => true
  | .fault _ => false
  | .refused _ => false

/-! ## WellFormed: ill-formed terms are refused, and the decoder never gives one (R84, R86) -/

theorem test_wellFormed_gark_above_nr_128 : (Instr.gark 11).wellFormed .aes128 = false := by decide
theorem test_wellFormed_gark_above_nr_192 : (Instr.gark 13).wellFormed .aes192 = false := by decide
theorem test_wellFormed_gark_above_nr_256 : (Instr.gark 15).wellFormed .aes256 = false := by decide
theorem test_wellFormed_gark_nr :
    (Instr.gark 10).wellFormed .aes128 ∧ (Instr.gark 12).wellFormed .aes192 ∧
      (Instr.gark 14).wellFormed .aes256 := by decide

/-! ## Decoding: a word of every constructor, written out from the table of R82 -/

theorem test_decode_nop : decode .aes128 0b00000000 = .instr .nop := by decide
theorem test_decode_seed : decode .aes128 0b00010000 = .instr .seed := by decide
theorem test_decode_gsub : decode .aes128 0b00100000 = .instr .gsub := by decide
theorem test_decode_gshr : decode .aes128 0b00110000 = .instr .gshr := by decide
theorem test_decode_gmix : decode .aes128 0b01000000 = .instr .gmix := by decide
/-- R83: "the list entry GARK 7 is the word 0x57"; R90: `GARK 10` is 0x5A. -/
theorem test_decode_gark :
    decode .aes128 0b01010111 = .instr (.gark 7) ∧ decode .aes128 0b01011010 = .instr (.gark 10) := by
  decide
theorem test_decode_ishr : decode .aes128 0b01100000 = .instr .ishr := by decide
theorem test_decode_isub : decode .aes128 0b01110000 = .instr .isub := by decide
theorem test_decode_imix : decode .aes128 0b10000000 = .instr .imix := by decide
theorem test_decode_enc : decode .aes128 0b10010000 = .instr .enc := by decide
theorem test_decode_dec : decode .aes128 0b10100000 = .instr .dec := by decide
theorem test_decode_clrstat : decode .aes128 0b10110000 = .instr .clrstat := by decide
/-- Section 2.7: the illegal words of its rows, and 0x5B, legal on AES192 only from there on. -/
theorem test_decode_illegal :
    decode .aes128 0x01 = .illegal .argNotZero ∧ decode .aes128 0x91 = .illegal .argNotZero ∧
      decode .aes128 0xC0 = .illegal .reservedOp ∧ decode .aes128 0xFF = .illegal .argNotZero ∧
      decode .aes128 0x5B = .illegal .roundAboveNr ∧ decode .aes192 0x5B = .instr (.gark 11) ∧
      decode .aes192 0x5D = .illegal .roundAboveNr := by decide

/-! ## The functions (sections 2.1, 2.2, 2.5 and R33) -/

theorem test_codeOf :
    codeOf 0x6B = 0xB ∧ codeOf 0x03 = 0xE ∧ codeOf 0x81 = 0xF ∧ codeOf 0x7F = 0x0 := by decide
theorem test_gmul : gmul 0x57 0x13 = 0xFE ∧ gmul 0x57 0x83 = 0xC1 ∧ gmul 0x03 0xFF = 0x1A := by decide
theorem test_tables :
    sbox 0x53 = 0xED ∧ sbox 0xFF = 0x16 ∧ invSbox 0x00 = 0x52 ∧ invSbox 0xED = 0x53 ∧
      sboxHam 0x40 = 0xA ∧ sboxHam 0x53 = 0xF := by decide
theorem test_mixColumn :
    mixColumn ⟨0xDB, 0x13, 0x53, 0x45⟩ = ⟨0x8E, 0x4D, 0xA1, 0xBC⟩ ∧
      invMixColumn ⟨0x04, 0x66, 0x81, 0xE5⟩ = ⟨0xD4, 0xBF, 0x5D, 0x30⟩ := by decide
theorem test_synDec : synDec 0x8 = none ∧ synDec 0x9 = some 3 ∧ synDec 0xE = some 4 := by decide
/-- Section 1: the last bytes of round key 10 of the NIST key. -/
theorem test_expandKey :
    (expandKey .aes128
      [0x2b, 0x7e, 0x15, 0x16, 0x28, 0xae, 0xd2, 0xa6, 0xab, 0xf7, 0x15, 0x88, 0x09, 0xcf, 0x4f,
        0x3c]).drop 172 = [0xb6, 0x63, 0x0c, 0xa6] := by decide

/-! ## One step of each instruction -/

/-- Section 2.7: NOP after reset leaves STATUS 0x02. -/
theorem test_nop_status : (after (exec .nop (running .nop 0 0 0))).status = 0x02 := by decide

/-- Section 2.1: SEED on `6bc1…172a`, and its STATUS. -/
theorem test_seed :
    let t := after (exec .seed (running .seed 0 0x6bc1bee22e409f96e93d7e117393172a 0))
    t.pcode = nibbles 0xb55d7a0aa73dcc52 ∧ t.S = bytes 0x6bc1bee22e409f96e93d7e117393172a ∧
      t.status = 0x02 := by decide

/-- Trace T1, row 2. -/
theorem test_gsub :
    let t := after (exec .gsub
      (running .gsub 0 0x40bfabf406ee4d3042ca6b997a5c5816 0xa6db815872b868d6))
    t.S = bytes 0x090862bf6f28e3042c747feeda4a6a47 ∧ t.pcode = nibbles 0xa916efe5a701ce81 ∧
      t.status = 0x02 := by decide

/-- Vector V12, as one GSUB: byte 5 is repaired, byte 6 is not, FAULT with CORRECTED. -/
theorem test_gsub_corrected_and_failing :
    let t := after (exec .gsub
      { running .gsub 0 0x40bfabf406ee4d3042ca6b997a5c5816 0 with
        seu := { Seu.none with b := bytes 0x00000000000881000000000000000000 } })
    t.S = bytes 0x090862bf6f2862042c747feeda4a6a47 ∧ t.status = 0x0C ∧ t.fcause = 0x02 ∧
      t.failmask = 0x0040 ∧ t.lastcorr = 0x0020 ∧ t.lastdiff = nibbles 0x000009f000000000 := by
  decide

/-- Trace T1, row 3. -/
theorem test_gshr :
    let t := after (exec .gshr
      (running .gshr 0 0x090862bf6f28e3042c747feeda4a6a47 0xa916efe5a701ce81))
    t.S = bytes 0x09287f476f746abf2c4a6204da08e3ee ∧ t.pcode = nibbles 0xaf01e786ae15c9e1 := by decide

/-- Section 2.6, the second stale row: FAULT with no upset. -/
theorem test_gshr_stale :
    let t := after (exec .gshr (running .gshr 0 0x00060000000000000000000000000000 0))
    t.S = bytes 0x00000000000000000000000000060000 ∧ t.status = 0x04 ∧ t.estep = 0x30 ∧
      t.failmask = 0x2000 ∧ t.unrecmask = 0x2000 ∧ t.lastdiff = nibbles 0x0000000000000800 := by
  decide

/-- Section 2.6: GMIX ignores the old PCODE. -/
theorem test_gmix :
    let t := after (exec .gmix
      (running .gmix 0 0x000102030405060708090a0b0c0d0e0f 0x7777777777777777))
    t.S = bytes 0x02070005060304010a0f080d0e0b0c09 ∧ t.pcode = nibbles 0xdb068e53429f17ca ∧
      t.status = 0x02 := by decide

/-- Vector V18, as one GMIX: a flip at point A spreads over the column and faults. -/
theorem test_gmix_spread :
    let t := after (exec .gmix
      { running .gmix 0 0x09287f476f746abf2c4a6204da08e3ee 0 with
        seu := { Seu.none with a := bytes 0x02000000000000000000000000000000 } })
    t.S = bytes 0x529f16c4978615cae01aae54ba1a2659 ∧ t.lastcorr = 0x0007 ∧ t.failmask = 0x0008 ∧
      t.lastdiff = nibbles 0x5dd8000000000000 := by decide

/-- Trace T1, row 5. -/
theorem test_gark :
    let t := after (exec (.gark 1)
      { running (.gark 1) 0 0x529f16c2978615cae01aae54ba1a2659 0x906b94820ab10aee with
        rk := roundKeyAt 1 0xa0fafe1788542cb123a339392a6c7605 })
    t.S = bytes 0xf265e8d51fd2397bc3b9976d9076505c ∧ t.pcode = nibbles 0x3a9ec5258e932a48 := by decide

/-- Section 2.6, the first stale row. -/
theorem test_gark_stale :
    let t := after (exec (.gark 0)
      { running (.gark 0) 0 0x01000000000000000000000000000000 0 with
        rk := roundKeyAt 0 0x2b7e151628aed2a6abf7158809cf4f3c })
    t.S = bytes 0x2b7e151628aed2a6abf7158809cf4f3c ∧ t.status = 0x0A ∧ t.estep = 0x50 ∧
      t.lastcorr = 0x0001 ∧ t.lastdiff = nibbles 0x3000000000000000 := by decide

/-- Section 2.3, with PCODE unchanged. -/
theorem test_ishr :
    let t := after (exec .ishr
      (running .ishr 0 0x000102030405060708090a0b0c0d0e0f 0x03de568b9a47cf12))
    t.S = bytes 0x000d0a0704010e0b0805020f0c090603 ∧ t.pcode = nibbles 0x03de568b9a47cf12 ∧
      t.status = 0x02 := by decide

/-- Section 2.3. -/
theorem test_isub :
    let t := after (exec .isub
      (running .isub 0 0x000102030405060708090a0b0c0d0e0f 0x03de568b9a47cf12))
    t.S = bytes 0x52096ad53036a538bf40a39e81f3d7fb ∧ t.pcode = nibbles 0x03de568b9a47cf12 := by decide

/-- Section 2.3. -/
theorem test_imix :
    let t := after (exec .imix
      (running .imix 0 0x000102030405060708090a0b0c0d0e0f 0x03de568b9a47cf12))
    t.S = bytes 0x0a0f080d0e0b0c090207000506030401 ∧ t.pcode = nibbles 0x03de568b9a47cf12 := by decide

/-- Trace T1, row 4: a middle step of ENC goes to the next position. -/
theorem test_enc_middle :
    let t := after (exec .enc
      (running .enc 4 0x09287f476f746abf2c4a6204da08e3ee 0xaf01e786ae15c9e1))
    t.S = bytes 0x529f16c2978615cae01aae54ba1a2659 ∧ t.idx = 5 ∧ t.status = 0x01 := by decide

/-- Trace T1, row 40: the last step of ENC. -/
theorem test_enc_last :
    let t := after (exec .enc
      { running .enc 40 0xeac3821cc49413e949a1c63b9205e331 0x4812370a09eff6eb with
        rk := roundKeyAt 10 0xd014f9a8c9ee2589e13f0cc8b6630ca6 })
    t.S = bytes 0x3ad77bb40d7a3660a89ecaf32466ef97 ∧ t.pcode = nibbles 0xc351f60c33203429 ∧
      t.idx = 0 ∧ t.status = 0x02 := by decide

/-- Trace T2, row 6: IMIX inside DEC. -/
theorem test_dec_middle :
    let t := after (exec .dec
      (running .dec 6 0x1741a11891c991688c36386f23ad82aa 0x59971c15001e851e))
    t.S = bytes 0x8333f0afff15a6edc191b409770e815e ∧ t.pcode = nibbles 0x59971c15001e851e ∧
      t.idx = 7 := by decide

/-- Vector V14, as one step of DEC: the upset is repaired and recorded. -/
theorem test_dec_corrected :
    let t := after (exec .dec
      { running .dec 5 0xbb36c7eb88334d49a4e7112e74f182c4 0x30d75650fbd77d13 with
        rk := roundKeyAt 9 0xac7766f319fadc2128d12941575c006e
        seu := { Seu.none with b := bytes 0x00000040000000000000000000000000 } })
    t.S = bytes 0x1741a11891c991688c36386f23ad82aa ∧ t.estep = 0x59 ∧ t.eindex = 5 ∧
      t.lastcorr = 0x0008 ∧ t.lastdiff = nibbles 0x000a000000000000 := by decide

/-- R191: "after a corrected ENC (STATUS = 0x0A)", CLRSTAT leaves 0x02. -/
theorem test_clrstat :
    let t := after (exec .clrstat
      { running .clrstat 0 0 0 with corrected := true, lastcorr := 0x0020, estep := 0x20, eindex := 2 })
    t.status = 0x02 ∧ t.lastcorr = 0 ∧ t.estep = 0 ∧ t.eindex = 0 := by decide

/-- Vector V6: under STALE the repaired byte still faults. -/
theorem test_stale_recheck :
    let t := raisedState (verifyCorrect 0x20
      { running .gsub 2 0x090862bf6f20e3042c747feeda4a6a47 0xa916efe5a701ce81 with recheck := .stale })
    t.S = bytes 0x090862bf6f28e3042c747feeda4a6a47 ∧ t.status = 0x0C ∧ t.fcause = 0x01 ∧
      t.failmask = 0x0020 ∧ t.eindex = 2 := by decide

/-! ## The host's accesses -/

/-- R52: the example of the packing of PCODE, its first and its last byte. -/
theorem test_packing :
    let s := { State.reset with pcode := nibbles 0xb55d7a0aa73dcc52 }
    (after (step { s with agenda := [.read 0x020] })).rdata = 0x5B ∧
      (after (step { s with agenda := [.read 0x027] })).rdata = 0x25 := by decide

/-- Section 2.7: an illegal word sets CMDERR alone; CFG of an AES256, STALE instance. -/
theorem test_host :
    (after (step { State.reset with agenda := [.write 0x010 0x5B] })).status = 0x10 ∧
      (after (step { State.resetOf .aes256 .stale with agenda := [.read 0x012] })).rdata = 0x06 := by
  decide

/-- The host's word reaches a meaning: decoded, and run as the first command after reset. -/
theorem test_first_command :
    decodeTableWord 8 0x5A = some (.gark 10) ∧
      (after (step (State.reset.withFetchWord 8 0x5A))).top = 0x5A ∧
      (after (step (State.reset.withFetchWord 8 0x5A))).status = 0x02 := by decide

/-- Program P4, its last lines: reset out of FAULT, then `RD 0x010 -> 0x00`; the reset ends with its
rising edge. -/
theorem test_reset_pulse :
    let s := { running .gsub 2 0 0 with mode := .fault, fcause := 0x02, agenda := resetPulse }
    let t := after (step (after (step s)))
    t.status = 0x00 ∧ t.fcause = 0x00 ∧ regByte t .cmd = 0x00 ∧ t.rstLow = false ∧ t.agenda = [] := by
  decide

/-- R230: while `rst_n` is low the block is in the reset state; a command written then does not leave
it, and STATUS and CFG read as R36 gives them. -/
theorem test_held_in_reset :
    let s := { State.resetOf .aes192 .refresh with rstLow := true }
    let t := after (step { s with agenda := [.write 0x010 0x00] })
    t.status = 0x00 ∧ t.top = 0x00 ∧ t.rstLow = true ∧
      (after (step { s with rdata := 0xFF, agenda := [.read 0x011] })).rdata = 0x00 ∧
      (after (step { s with agenda := [.read 0x012] })).rdata = 0x01 := by decide

/-! ## Witnesses: a concrete state and operands for each obligation with hypotheses -/

/-- State and PCODE of trace T1, row 2: PCODE describes State. -/
def synced (i : Instr) : State :=
  running i 0 0x090862bf6f28e3042c747feeda4a6a47 0xa916efe5a701ce81

/-- A state whose byte 5 has the given pattern against an all-zero PCODE. -/
def pattern (m : Byte) : State := { State.reset with S := (Lanes.fill 0).set 5 m }

/-- State zero but for byte 5, which has a table-matched syndrome, and byte 6, which has not. -/
def mixed : State := { State.reset with S := ((Lanes.fill 0).set 5 0x08).set 6 0x81 }

theorem synced_synced (i : Instr) : Synced (synced i) := by
  show ∀ n, (nibbles 0xa916efe5a701ce81).get n = codeOf ((bytes 0x090862bf6f28e3042c747feeda4a6a47).get n)
  decide

theorem witness_IllegalWords :
    decode .aes128 0xC0 = .illegal .reservedOp ∧ decode .aes128 0xBF = .illegal .argNotZero ∧
      decode .aes256 0x5F = .illegal .roundAboveNr := by decide

theorem witness_PredictorsAreRight :
    ∀ n, (nibbles 0xa916efe5a701ce81).get n =
      codeOf ((bytes 0x090862bf6f28e3042c747feeda4a6a47).get n) := by decide

theorem witness_CorrectorAndEventRecord :
    syndromeAt mixed 5 = codeOf (1#8 <<< 3) ∧ unrecognized (syndromeAt mixed 6) = true ∧
      syndromeAt mixed 0 = 0 ∧ ∀ n, syndromeAt State.reset n = 0 := by decide

theorem witness_RefreshVerdict :
    mixed.recheck = .refresh ∧ (∃ n, unrecognized (syndromeAt mixed n) = true) ∧
      (pattern 0x08).recheck = .refresh ∧
      ∀ n, unrecognized (syndromeAt (pattern 0x08) n) = false := by decide

theorem witness_StaleVerdict :
    let s := { pattern 0x08 with recheck := .stale }
    s.recheck = .stale ∧ (∃ n, syndromeAt s n ≠ 0) ∧
      (State.resetOf .aes128 .stale).recheck = .stale ∧
      ∀ n, syndromeAt (State.resetOf .aes128 .stale) n = 0 := by decide

/-- Two states with different data, the kernel byte 0x13 among it, and the same syndromes. -/
theorem witness_VerdictIgnoresData :
    let s := pattern 0x08
    let p := { s with S := s.S.set 0 0x13 }
    s.S ≠ p.S ∧ s.recheck = p.recheck ∧ s.idx = p.idx ∧ (∀ n, syndromeAt s n = syndromeAt p n) ∧
      ∃ n, syndromeAt s n ≠ 0 := by decide

theorem witness_GuardedFaultFree :
    (∃ f, guardedTransform [] .gsub = some f) ∧ (∃ f, guardedTransform [] .gshr = some f) ∧
      (∃ f, guardedTransform [] .gmix = some f) ∧ (∃ f, guardedTransform [] (.gark 15) = some f) ∧
      ∀ i, (synced i).rk = [] ∧ (synced i).idx = 0 ∧ (synced i).seu = .none ∧ Synced (synced i) :=
  ⟨⟨_, rfl⟩, ⟨_, rfl⟩, ⟨_, rfl⟩, ⟨_, rfl⟩, fun i => ⟨rfl, rfl, rfl, synced_synced i⟩⟩

theorem witness_GuardedFrame :
    ∃ f t, guardedTransform [] .gshr = some f ∧ exec .gshr (synced .gshr) = .next t :=
  ⟨_, _, rfl, rfl⟩

theorem upsetB_single (k : Fin 8) : SingleBitAtB (upsetB (1#8 <<< k.val)) := by
  unfold SingleBitAtB AtMostOneBit
  revert k
  decide

/-- The first middle GMIX of ENC. -/
theorem witness_SingleBitAtBRestored :
    let s := { synced .enc with idx := 4, seu := upsetB 0x80 }
    ∃ f, (microList s.variant .enc)[s.idx.toNat]? = some .gmix ∧
      guardedTransform s.rk MicroOp.gmix.instr = some f ∧ s.recheck = .refresh ∧
      SingleBitAtB s.seu ∧ Synced s :=
  ⟨_, rfl, rfl, rfl, upsetB_single 7, synced_synced .enc⟩

/-- The last GSHR of ENC. -/
theorem witness_SingleBitAtARestored :
    let s := { synced .enc with
      idx := 39
      seu := { Seu.none with a := (Lanes.fill 0).set 1 0x04 } }
    ∃ f, (microList s.variant .enc)[s.idx.toNat]? = some .gshr ∧
      guardedTransform s.rk MicroOp.gshr.instr = some f ∧ readsPcode MicroOp.gshr.instr = true ∧
      s.recheck = .refresh ∧ SingleBitAtA s.seu ∧ Synced s :=
  ⟨_, rfl, rfl, rfl, rfl, by unfold SingleBitAtA AtMostOneBit; decide, synced_synced .enc⟩

/-- The first GARK of DEC, and GARK issued directly. -/
theorem witness_UnrecognizedUpsetFaults :
    let s := { synced .dec with idx := 1, seu := upsetB 0x06 }
    (∃ f, (microList s.variant .dec)[s.idx.toNat]? = some (.gark 10) ∧
      guardedTransform s.rk (MicroOp.gark 10).instr = some f ∧ s.recheck = .refresh ∧
      s.seu.a = .fill 0 ∧ s.seu.c = .fill 0 ∧ Synced s ∧
      ∃ n, unrecognized (codeOf (s.seu.b.get n)) = true) ∧
    (microList .aes128 (.gark 10))[(synced (.gark 10)).idx.toNat]? = some (.gark 10) :=
  ⟨⟨_, rfl, rfl, rfl, rfl, rfl, synced_synced .dec, 5, by decide⟩, rfl⟩

/-- The last GARK of ENC. -/
theorem witness_StaleDetectedUpsetFaults :
    let s := { synced .enc with recheck := .stale, idx := 40, seu := upsetB 0x08 }
    ∃ f, (microList s.variant .enc)[s.idx.toNat]? = some (.gark 10) ∧
      guardedTransform s.rk (MicroOp.gark 10).instr = some f ∧ s.recheck = .stale ∧
      s.seu.a = .fill 0 ∧ s.seu.c = .fill 0 ∧ Synced s ∧ ∃ n, codeOf (s.seu.b.get n) ≠ 0 :=
  ⟨_, rfl, rfl, rfl, rfl, rfl, synced_synced .enc, 5, by decide⟩

/-- The patterns of vectors V7 and V7b in the first GSUB of ENC: one aliases bit 4, one is in the
kernel. -/
theorem witness_SilentMiscorrection :
    let s := { synced .enc with idx := 2, seu := upsetB 0x03 }
    let p := { synced .enc with idx := 2, seu := upsetB 0x13 }
    (∃ f, (microList s.variant .enc)[s.idx.toNat]? = some .gsub ∧
      guardedTransform s.rk MicroOp.gsub.instr = some f) ∧ s.recheck = .refresh ∧
      s.seu.a = .fill 0 ∧ s.seu.c = .fill 0 ∧ Synced s ∧
      (∀ n, unrecognized (codeOf (s.seu.b.get n)) = false) ∧
      codeOf (s.seu.b.get 5) = codeOf (1#8 <<< 4) ∧
      (∀ n, unrecognized (codeOf (p.seu.b.get n)) = false) ∧ codeOf (p.seu.b.get 5) = 0 ∧
      p.seu.b.get 5 ≠ 0 :=
  ⟨⟨_, rfl, rfl⟩, rfl, rfl, rfl, synced_synced .enc, by decide, by decide, by decide, by decide,
    by decide⟩

theorem witness_SingleCodeFlipFaults :
    let s := { synced .enc with
      idx := 2
      seu := ⟨.fill 0, .fill 0, (Lanes.fill 0).set 15 (1#4 <<< 3)⟩ }
    ∃ f, (microList s.variant .enc)[s.idx.toNat]? = some .gsub ∧
      guardedTransform s.rk MicroOp.gsub.instr = some f ∧
      s.seu = { a := .fill 0, b := .fill 0, c := (Lanes.fill 0).set 15 (1#4 <<< (3 : Fin 4).val) } ∧
      Synced s :=
  ⟨_, rfl, rfl, rfl, synced_synced .enc⟩

theorem witness_StalePcodeIsSeen :
    (pattern 0x01).idx = 0 ∧ (pattern 0x01).seu = .none ∧ ∃ n, syndromeAt (pattern 0x01) n ≠ 0 := by
  decide

/-- The gaps before GSHR and before GMIX of ENC. -/
theorem witness_FlipBetweenSteps :
    (∃ f, guardedTransform [] MicroOp.gshr.instr = some f) ∧ readsPcode MicroOp.gshr.instr = true ∧
      (microList .aes128 .enc)[(running .enc 3 0 0).idx.toNat]? = some .gshr ∧
      (∃ f, guardedTransform [] MicroOp.gmix.instr = some f) ∧
      readsPcode MicroOp.gmix.instr = false ∧
      (microList .aes128 .enc)[(running .enc 4 0 0).idx.toNat]? = some .gmix ∧
      (running .enc 3 0 0).rk = [] :=
  ⟨⟨_, rfl⟩, rfl, rfl, ⟨_, rfl⟩, rfl, rfl, rfl⟩

/-- GMIX of ENC with a mask at each point, of several bits at point C: it raises the Fault, and without
masks it does not. -/
theorem witness_GuardedStepUnderMasks :
    let s := { synced .enc with
      idx := 4
      seu := ⟨(Lanes.fill 0).set 0 0x02, (Lanes.fill 0).set 5 0x08, (Lanes.fill 0).set 9 0x7⟩ }
    (∃ f, (microList s.variant .enc)[s.idx.toNat]? = some .gmix ∧
      guardedTransform s.rk MicroOp.gmix.instr = some f) ∧ Synced s ∧
      (raisedState (micro .gmix s)).mode = .fault ∧
      (after (exec .enc { s with seu := .none })).idx = 5 :=
  ⟨⟨_, rfl, rfl⟩, synced_synced .enc, by decide, by decide⟩

theorem witness_SeedResult : (running .seed 0 0x6bc1bee22e409f96e93d7e117393172a 0).idx = 0 := rfl
theorem witness_InverseResults : (running .imix 0 0x6bc1bee22e409f96e93d7e117393172a 0).idx = 0 := rfl
theorem witness_SystemResults : (running .clrstat 0 0 0).idx = 0 := rfl

/-- The first and the last middle round, on the shortest and the longest list. -/
theorem witness_EncProgEntries :
    (1 ≤ 1 ∧ 1 ≤ Variant.aes128.nr - 1) ∧ (1 ≤ 9 ∧ 9 ≤ Variant.aes128.nr - 1) ∧
      (1 ≤ 13 ∧ 13 ≤ Variant.aes256.nr - 1) := by decide
theorem witness_DecProgEntries :
    (1 ≤ 1 ∧ 1 ≤ Variant.aes192.nr - 1) ∧ (1 ≤ 11 ∧ 11 ≤ Variant.aes192.nr - 1) := by decide

/-- The first, an inner and the last position, and the longest list. -/
theorem witness_SequencerStep :
    (running .nop 0 0 0).idx.toNat < (microList .aes128 .nop).length ∧
      (running .enc 17 0 0).idx.toNat < (microList .aes128 .enc).length ∧
      (running .dec 70 0 0).idx.toNat < (microList .aes256 .dec).length := by decide

/-- A guarded entry, and an unguarded one under a mask. -/
theorem witness_SequencerFrame :
    let u := { running .dec 6 0 0 with seu := upsetB 0x06 }
    (∃ t, (microList .aes128 .enc)[(running .enc 4 0 0).idx.toNat]? = some .gmix ∧
      exec .enc (running .enc 4 0 0) = .next t) ∧
    ∃ t, (microList u.variant .dec)[u.idx.toNat]? = some .imix ∧ exec .dec u = .next t ∧
      guardedTransform u.rk MicroOp.imix.instr = none :=
  ⟨⟨_, rfl, rfl⟩, ⟨_, rfl, rfl, rfl⟩⟩

/-- A guarded entry without an upset, and the unguarded entry IMIX of DEC under a mask. -/
theorem witness_SequencerStepFaultFree :
    let s := { synced .enc with idx := 3 }
    let u := { running .dec 6 0 0 with seu := upsetB 0x06 }
    (microList s.variant .enc)[s.idx.toNat]? = some .gshr ∧
      guardedTransform s.rk MicroOp.gshr.instr ≠ none ∧ s.seu = .none ∧ Synced s ∧
      (microList u.variant .dec)[u.idx.toNat]? = some .imix ∧
      guardedTransform u.rk MicroOp.imix.instr = none ∧ readsPcode MicroOp.imix.instr = false ∧
      u.seu ≠ .none :=
  ⟨rfl, nofun, rfl, synced_synced .enc, rfl, rfl, rfl, by decide⟩

theorem witness_PastTheListStops :
    (microList .aes128 .enc).length ≤ (running .enc 41 0 0).idx.toNat := by decide

theorem witness_EncComputesCipher :
    let s := running .enc 0 0x6bc1bee22e409f96e93d7e117393172a 0
    s.rstLow = false ∧ s.mode = .run ∧ s.top = 0x90 ∧ s.idx = 0 ∧ s.agenda = [] := by decide
theorem witness_DecComputesInvCipher :
    let s := running .dec 0 0x3ad77bb40d7a3660a89ecaf32466ef97 0
    s.rstLow = false ∧ s.mode = .run ∧ s.top = 0xA0 ∧ s.idx = 0 ∧ s.agenda = [] := by decide

theorem witness_EncDecRoundTrip :
    let s := { State.reset with
      S := bytes 0x6bc1bee22e409f96e93d7e117393172a
      agenda := issueWait .aes128 .enc ++ issueWait .aes128 .dec }
    s.rstLow = false ∧ s.mode = .idle ∧
      s.agenda = issueWait s.variant .enc ++ issueWait s.variant .dec :=
  ⟨rfl, rfl, rfl⟩

/-- An upset in every step of ENC (of DEC), each of one bit of byte 5. -/
theorem witness_EncToleratesSingleBits :
    let masks := List.replicate 41 (upsetB 0x08)
    let s := { running .enc 0 0 0 with agenda := masks.map .core }
    s.rstLow = false ∧ s.recheck = .refresh ∧ s.mode = .run ∧ s.top = 0x90 ∧ s.idx = 0 ∧
      masks.length = 4 * s.variant.nr + 1 ∧ (∀ u ∈ masks, SingleBitAtB u) ∧
      s.agenda = masks.map .core :=
  ⟨rfl, rfl, rfl, by decide, rfl, by decide,
    fun _ h => (List.eq_of_mem_replicate h) ▸ upsetB_single 3, rfl⟩
theorem witness_DecToleratesSingleBits :
    let masks := List.replicate 51 (upsetB 0x08)
    let s := { running .dec 0 0 0 with agenda := masks.map .core }
    s.rstLow = false ∧ s.recheck = .refresh ∧ s.mode = .run ∧ s.top = 0xA0 ∧ s.idx = 0 ∧
      masks.length = 5 * s.variant.nr + 1 ∧ (∀ u ∈ masks, SingleBitAtB u ∨ SingleBitAtA u) ∧
      s.agenda = masks.map .core :=
  ⟨rfl, rfl, rfl, by decide, rfl, by decide,
    fun _ h => .inl ((List.eq_of_mem_replicate h) ▸ upsetB_single 3), rfl⟩

theorem witness_MicroCommandsComputeCipher :
    let s := { State.reset with agenda := (pseudoEncrypt .aes128).flatMap (issueWait .aes128) }
    let p := { State.reset with agenda := (pseudoDecrypt .aes128).flatMap (issueWait .aes128) }
    s.rstLow = false ∧ p.rstLow = false ∧
      s.mode = .idle ∧ s.agenda = (pseudoEncrypt s.variant).flatMap (issueWait s.variant) ∧
      p.mode = .idle ∧ p.agenda = (pseudoDecrypt p.variant).flatMap (issueWait p.variant) :=
  ⟨rfl, rfl, rfl, rfl, rfl, rfl⟩

/-- The last step of ENC, under an upset. -/
theorem witness_CommandTerminates :
    let s := { running .enc 40 0 0 with agenda := [.core (upsetB 0x06)] }
    s.rstLow = false ∧ s.mode = .run ∧ decode s.variant s.top = .instr .enc ∧
      s.idx.toNat + [upsetB 0x06].length = (microList s.variant .enc).length ∧
      s.agenda = [upsetB 0x06].map .core := by decide

theorem witness_CommandWrite :
    let s := { State.reset with agenda := [.write 0x010 0x5A] }
    s.rstLow = false ∧ s.agenda = [.write 0x010 0x5A] ∧ s.mode = .idle ∧
      decode s.variant 0x5A = .instr (.gark 10) ∧
      decode s.variant 0x5B = .illegal .roundAboveNr ∧ (running .nop 0 0 0).mode = .run ∧
      ({ s with mode := .fault } : State).mode = .fault := by decide

/-- The boundary addresses of each clause. -/
theorem witness_IdleWrite :
    State.reset.rstLow = false ∧ State.reset.mode = .idle ∧ Memory.wf State.reset.rk ∧
      (0x000#10).toNat = (0 : Fin 16).val ∧ (0x00F#10).toNat = (15 : Fin 16).val ∧
      (0x100#10).toNat = 0x100 + 0 ∧ (0x1AF#10).toNat = 0x100 + 175 ∧
      175 < 16 * (State.reset.variant.nr + 1) ∧
      decode State.reset.variant 0xB0 = .instr .clrstat ∧
      (0x010 < (0x011#10).toNat ∧ (0x0FF#10).toNat < 0x100) ∧
      0x100 + 16 * (State.reset.variant.nr + 1) ≤ (0x1B0#10).toNat ∧
      0x100 + 16 * (State.reset.variant.nr + 1) ≤ (0x3FF#10).toNat := by decide

theorem witness_BusyAccess :
    let s := { running .nop 0 0 0 with agenda := [.read 0x011] }
    let p := { running .nop 0 0 0 with agenda := [.read 0x012] }
    let q := { running .nop 0 0 0 with agenda := [.write 0x3FF 0x01] }
    s.rstLow = false ∧ s.mode = .run ∧ s.agenda = [.read 0x011] ∧
      p.agenda = [.read 0x012] ∧ 0x012#10 ≠ 0x011 ∧
      q.agenda = [.write 0x3FF 0x01] := by decide

theorem witness_FaultIsSticky :
    let s := { State.reset with mode := .fault, agenda := [.write 0x010 0x00] }
    s.mode = .fault ∧ ¬ Resets s ∧ ∀ addr rest, s.agenda ≠ .read addr :: rest :=
  ⟨rfl, fun h => (by rcases h with h | ⟨_, h⟩ <;> cases h), fun _ _ h => (by cases h)⟩

/-- The boundary addresses of each clause of the address map. -/
theorem witness_ReadRegisters :
    let s := { State.reset with agenda := [.read 0x00F] }
    s.rstLow = false ∧ s.mode = .idle ∧ s.agenda = [.read 0x00F] ∧ (0x00F#10).toNat = (15 : Fin 16).val ∧
      (0x020#10).toNat = 0x020 + 2 * 0 + 0 ∧ (0x027#10).toNat = 0x020 + 2 * 3 + 1 ∧
      (0x028#10).toNat = 0x028 + 2 * 0 + 0 ∧ (0x02F#10).toNat = 0x028 + 2 * 3 + 1 ∧
      (0x100#10).toNat = 0x100 + 0 ∧ (0x1AF#10).toNat = 0x100 + 175 ∧
      175 < 16 * (s.variant.nr + 1) ∧ (0x01C ≤ (0x01C#10).toNat ∧ (0x01F#10).toNat ≤ 0x01F) ∧
      (0x030 ≤ (0x030#10).toNat ∧ (0x0FF#10).toNat ≤ 0x0FF) ∧
      0x100 + 16 * (s.variant.nr + 1) ≤ (0x1B0#10).toNat := by decide

theorem witness_StepRunsDecodedCommand :
    (running (.gark 10) 0 0 0).rstLow = false ∧ (running (.gark 10) 0 0 0).mode = .run ∧
      decode .aes128 (running (.gark 10) 0 0 0).top = .instr (.gark 10) ∧
      (running (.gark 10) 0 0 0).agenda = [] := by decide

theorem witness_FetchedWordRuns : (Instr.gark 10).wellFormed State.reset.variant = true := by decide

/-- A falling edge in RUN, a write and an empty agenda while `rst_n` is low, and a rising edge of a pin
that is high. -/
theorem witness_ResetEventValues :
    Resets { running .enc 7 0 0 with agenda := [.rstFall] } ∧
      Resets { State.reset with rstLow := true, agenda := [.write 0x010 0x90] } ∧
      Resets { State.reset with rstLow := true } ∧
      ({ State.reset with agenda := [.rstRise] } : State).agenda = [.rstRise] :=
  ⟨.inr ⟨_, rfl⟩, .inl rfl, .inl rfl, rfl⟩

/-- The boundary addresses of each clause. -/
theorem witness_ReadWhileReset :
    let s := { State.reset with rstLow := true, agenda := [.read 0x020] }
    s.rstLow = true ∧ s.agenda = [.read 0x020] ∧ (0x00F#10).toNat = (15 : Fin 16).val ∧
      (0x010 ≤ (0x010#10).toNat ∧ (0x01F#10).toNat < 0x020 ∧ 0x01F#10 ≠ 0x012) ∧
      (0x020#10).toNat = 0x020 + 2 * 0 + 0 ∧ (0x027#10).toNat = 0x020 + 2 * 3 + 1 ∧
      (0x028 ≤ (0x028#10).toNat ∧ (0x0FF#10).toNat < 0x100) ∧
      (0x100#10).toNat = 0x100 + 0 ∧ (0x1AF#10).toNat = 0x100 + 175 ∧
      175 < 16 * (s.variant.nr + 1) ∧ 0x100 + 16 * (s.variant.nr + 1) ≤ (0x1B0#10).toNat := by decide

/-- A running GSUB meets the invariant. -/
theorem running_inv : Machine.Inv (running .gsub 0 0 0) := by
  have hd : decode .aes128 (encode .gsub) = .instr .gsub := by decide
  refine ⟨⟨⟨.gsub, hd⟩, fun _ i h => ?_, fun h => (by cases h), fun h => (by cases h)⟩,
    ⟨(by decide : 0#16 &&& 0#16 = 0),
      (by decide : ∀ n : Fin 16, (0#16 ||| 0#16).getLsbD n.val = ((Lanes.fill 0#4).get n != 0)),
      fun _ => ⟨rfl, rfl⟩, fun h => (by cases h), fun h => (by cases h), fun h => (by cases h),
      fun h => (by cases h), fun h => (by cases h)⟩,
    ⟨⟨List.Pairwise.nil, fun _ h => (by cases h)⟩, fun _ h => (by cases h)⟩, fun h => (by cases h)⟩
  cases hd.symm.trans h
  exact Nat.zero_lt_one

/-- What vector V8 leaves, as one GSUB. -/
def faulted (r : Recheck) : State :=
  { running .gsub 0 0 0 with
    recheck := r
    mode := .fault
    lastdiff := (Lanes.fill 0).set 5 0x8
    unrecmask := 0x0020
    estep := 0x20
    failmask := 0x0020
    fcause := 0x02 }

/-- A recorded fault meets the invariant, under either RECHECK. -/
theorem faulted_inv (r : Recheck) : Machine.Inv (faulted r) := by
  have hd : decode .aes128 (encode .gsub) = .instr .gsub := by decide
  refine ⟨⟨⟨.gsub, hd⟩, fun h => (by cases h), fun h => (by cases h), fun h => (by cases h)⟩,
    ⟨(by decide : 0#16 &&& 0x0020#16 = 0),
      (by decide : ∀ n : Fin 16,
        (0#16 ||| 0x0020#16).getLsbD n.val = (((Lanes.fill 0#4).set 5 0x8).get n != 0)),
      fun h => absurd rfl h, fun _ _ => rfl,
      fun _ _ => (by decide : 0x0020#16 = 0#16 ||| 0x0020#16),
      fun _ => (by decide : 0x0020#16 ≠ 0),
      fun _ => (by decide : 0x02#8 = fcauseOf 0x0020 0 0x0020), fun _ => ⟨rfl, fun i h => ?_⟩⟩,
    ⟨⟨List.Pairwise.nil, fun _ h => (by cases h)⟩, fun _ h => (by cases h)⟩, fun h => (by cases h)⟩
  cases hd.symm.trans h
  rfl

/-- The state that a completed NOP leaves, with a move pending, meets the invariant. -/
theorem completed_inv (m : Move) :
    Machine.Inv { State.reset with done := true, agenda := [m] } := by
  refine ⟨⟨⟨.nop, (by decide : decode .aes128 0x00 = .instr .nop)⟩, fun h => (by cases h),
      fun _ => rfl, fun _ => rfl⟩,
    ⟨(by decide : 0#16 &&& 0#16 = 0),
      (by decide : ∀ n : Fin 16, (0#16 ||| 0#16).getLsbD n.val = ((Lanes.fill 0#4).get n != 0)),
      fun _ => ⟨rfl, rfl⟩, fun h => (by cases h), fun h => (by cases h), fun h => (by cases h),
      fun h => (by cases h), fun h => (by cases h)⟩,
    ⟨⟨List.Pairwise.nil, fun _ h => (by cases h)⟩, fun _ h => (by cases h)⟩, fun h => (by cases h)⟩

theorem witness_StepKeepsInv :
    ∃ t, Machine.Inv (running .gsub 0 0 0) ∧ step (running .gsub 0 0 0) = .next t :=
  ⟨_, running_inv, rfl⟩
theorem witness_StepNeverStops : Machine.Inv (running .gsub 0 0 0) := running_inv
theorem witness_StatusExclusive : Machine.Inv (faulted .refresh) := faulted_inv .refresh
theorem witness_FaultCauses :
    Machine.Inv (faulted .refresh) ∧ (faulted .refresh).mode = .fault ∧
      (faulted .refresh).recheck = .refresh ∧ Machine.Inv (faulted .stale) ∧
      (faulted .stale).mode = .fault ∧ (faulted .stale).recheck = .stale :=
  ⟨faulted_inv _, rfl, rfl, faulted_inv _, rfl, rfl⟩

/-- One step for each clause: IDLE to RUN, RUN to IDLE, RUN to FAULT, FAULT to IDLE. -/
theorem witness_ModeTransitions :
    let s1 := { State.reset with agenda := [.write 0x010 0x90] }
    let s2 := running .nop 0 0 0
    let s3 := { running .gsub 0 0 0 with agenda := [.core (upsetB 0x06)] }
    let s4 := { faulted .refresh with agenda := [.rstFall] }
    completes (step s1) ∧ s1.mode = .idle ∧ (after (step s1)).mode ≠ .idle ∧
      completes (step s2) ∧ s2.mode = .run ∧ (after (step s2)).mode = .idle ∧
      completes (step s3) ∧ s3.mode = .run ∧ (after (step s3)).mode = .fault ∧
      completes (step s4) ∧ s4.mode = .fault ∧ (after (step s4)).mode ≠ .fault := by decide

/-- A step that changes RK, one that changes PCODE, and one that changes State from the bus. -/
theorem witness_DataWriters :
    let s1 := { State.reset with agenda := [.write 0x1AF 0x77] }
    let s2 := running .gsub 0 0 0
    let s3 := { State.reset with agenda := [.write 0x00F 0x77] }
    completes (step s1) ∧ ¬ Resets s1 ∧ (after (step s1)).rk ≠ s1.rk ∧
      completes (step s2) ∧ ¬ Resets s2 ∧ (after (step s2)).pcode ≠ s2.pcode ∧
      completes (step s3) ∧ ¬ Resets s3 ∧ (after (step s3)).S ≠ s3.S :=
  ⟨by decide, fun h => (by rcases h with h | ⟨_, h⟩ <;> cases h), by decide, by decide,
    fun h => (by rcases h with h | ⟨_, h⟩ <;> cases h), by decide, by decide,
    fun h => (by rcases h with h | ⟨_, h⟩ <;> cases h), by decide⟩

theorem witness_ParametersAreConstant : completes (step (running .gsub 0 0 0)) = true := by decide

/-- One step for each clause: CORRECTED set and cleared, CMDERR set (while BUSY, and by a refused
word) and cleared, DONE set, and cleared by a command and by a reset. -/
theorem witness_StatusBitsChange :
    let s1 := { running .gsub 0 0 0 with agenda := [.core (upsetB 0x08)] }
    let s2 := { running .clrstat 0 0 0 with corrected := true, cmderr := true }
    let s3 := { running .enc 0 0 0 with agenda := [.write 0x000 0x00] }
    let s4 := { State.reset with agenda := [.write 0x010 0xC0] }
    let s5 := { State.reset with done := true, agenda := [.write 0x010 0x90] }
    let s6 := { State.reset with done := true, agenda := [.rstFall] }
    (s1.corrected = false ∧ (after (step s1)).corrected = true ∧
      s2.corrected = true ∧ (after (step s2)).corrected = false ∧ (after (step s2)).cmderr = false ∧
      s2.done = false ∧ (after (step s2)).done = true ∧
      s3.cmderr = false ∧ (after (step s3)).cmderr = true ∧
      s4.cmderr = false ∧ (after (step s4)).cmderr = true ∧
      completes (step s5) = true ∧ s5.done = true ∧ (after (step s5)).done = false ∧
      completes (step s6) = true ∧ s6.done = true ∧ (after (step s6)).done = false) ∧
      Machine.Inv s5 ∧ Machine.Inv s6 :=
  ⟨by decide, completed_inv _, completed_inv _⟩

end Sys2Proof.Tests
end

section
/-! The two parameters VARIANT and RECHECK (00_scope.md R7, R8): each operation a step is made of
keeps them, hence so does every step, and CFG, which reads nothing else (10_state.md R26), stays. -/
namespace Sys2Proof.Machine

/-- CFG is a view of the two parameters (10_state.md R26). -/
theorem cfg_congr {s t : State} (hv : t.variant = s.variant) (hr : t.recheck = s.recheck) :
    t.cfg = s.cfg := by
  simp only [State.cfg, hv, hr]

/-- Sequencing touches only mode, position and DONE. -/
theorem advance_ok_parameters (len : Nat) (s : State) :
    (advance len (.ok s)).variant = s.variant ∧ (advance len (.ok s)).recheck = s.recheck := by
  by_cases hl : s.idx.toNat + 1 = len
  · rw [advance_ok_last hl]
    exact ⟨complete_variant s, complete_recheck s⟩
  · rw [advance_ok_inside hl]
    exact ⟨rfl, rfl⟩

/-- One sequencer step of a command, with or without a Fault and whatever the upsets. -/
theorem exec_parameters {i : Instr} {s t : State} (h : exec i s = .next t) :
    t.variant = s.variant ∧ t.recheck = s.recheck := by
  obtain ⟨m, -, rfl⟩ := exec_next_inv h
  obtain ⟨u, hu, hv, hr, -⟩ := micro_frame m s
  rcases hu with ⟨hok, -⟩ | ⟨hraised, -⟩
  · obtain ⟨hav, har⟩ := advance_ok_parameters (microList s.variant i).length u
    rw [hok]
    exact ⟨hav.trans hv, har.trans hr⟩
  · rw [hraised, advance_raised]
    exact ⟨hv, hr⟩

theorem coreStep_parameters {u : Seu} {s t : State} (h : coreStep u s = .next t) :
    t.variant = s.variant ∧ t.recheck = s.recheck := by
  rcases coreStep_next_inv h with ⟨-, rfl⟩ | ⟨-, i, -, he⟩
  · exact ⟨rfl, rfl⟩
  · exact exec_parameters (s := { s with seu := u }) he

/-- Neither parameter stands behind an address a host write can change (20_memory.md R57). -/
theorem hostWrite_parameters (a : BitVec 10) (v : Byte) (s : State) :
    (hostWrite a v s).variant = s.variant ∧ (hostWrite a v s).recheck = s.recheck := by
  rcases hostWrite_cases a v s with
    e | ⟨-, n, -, e⟩ | ⟨-, b, -, -, e⟩ | ⟨-, -, i, -, e⟩ | ⟨-, e⟩ <;>
    rw [e] <;> exact ⟨rfl, rfl⟩

theorem hostRead_parameters (a : BitVec 10) (s : State) :
    (hostRead a s).variant = s.variant ∧ (hostRead a s).recheck = s.recheck := by
  obtain ⟨b, k, e⟩ := hostRead_frame a s
  rw [e]
  exact ⟨rfl, rfl⟩

/-- Every step of every agent, reset included, keeps the two parameters (00_scope.md R7, R8). -/
theorem step_parameters {s t : State} (h : step s = .next t) :
    t.variant = s.variant ∧ t.recheck = s.recheck := by
  rcases step_next_inv h with ⟨-, b, l, rfl⟩ | ⟨-, hmove⟩
  · exact ⟨rfl, rfl⟩
  rcases hmove with ⟨-, hcore⟩ | ⟨u, rest, -, hcore⟩ | ⟨a, v, rest, -, rfl⟩ | ⟨a, rest, -, rfl⟩ |
    ⟨rest, -, rfl⟩
  · exact coreStep_parameters hcore
  · exact coreStep_parameters (s := { s with agenda := rest }) hcore
  · exact hostWrite_parameters a v { s with agenda := rest }
  · exact hostRead_parameters a { s with agenda := rest }
  · exact ⟨rfl, rfl⟩

/-- Settles O57: a step keeps both parameters, and CFG is a view of them. -/
theorem parametersAreConstant : Obligations.ParametersAreConstant := by
  unfold Obligations.ParametersAreConstant
  intro s t h
  obtain ⟨hv, hr⟩ := step_parameters h
  exact ⟨hv, hr, cfg_congr hv hr⟩

end Sys2Proof.Machine
end

section
/-! What one step does, in the terms the claims about a whole step need: STATUS and CFG bit by bit
(10_state.md R24, R26), the state a micro-operation leaves (45_driver.md R175), the sequencer and the
sticky flags after a command's step, and the step of the machine by who took it. -/
namespace Sys2Proof.Machine

/-! ## STATUS and CFG bit by bit -/

/-- Five flags below three zero bits, the layout of STATUS. -/
theorem flagByte_bits : ∀ e c f d b : Bool,
    let w : Byte := 0#3 ++ BitVec.ofBool e ++ BitVec.ofBool c ++ BitVec.ofBool f ++
      BitVec.ofBool d ++ BitVec.ofBool b
    w.getLsbD 0 = b ∧ w.getLsbD 1 = d ∧ w.getLsbD 2 = f ∧ w.getLsbD 3 = c ∧ w.getLsbD 4 = e ∧
      w.toNat < 32 := by decide

/-- The bits of STATUS, each by the flag it shows (10_state.md R24). -/
theorem status_bits (s : State) :
    s.status.getLsbD 0 = s.busy ∧ s.status.getLsbD 1 = s.done ∧ s.status.getLsbD 2 = s.faulted ∧
      s.status.getLsbD 3 = s.corrected ∧ s.status.getLsbD 4 = s.cmderr ∧ s.status.toNat < 32 :=
  flagByte_bits _ _ _ _ _

@[simp] theorem busy_iff (s : State) : s.busy = true ↔ s.mode = .run := beq_iff_eq

@[simp] theorem faulted_iff (s : State) : s.faulted = true ↔ s.mode = .fault := beq_iff_eq

/-- A 2-bit code, a flag above it and five zero bits, the layout of CFG (10_state.md R26). -/
theorem configByte_bits : ∀ (r : Bool) (c : BitVec 2),
    let w : Byte := 0#5 ++ BitVec.ofBool r ++ c
    w.toNat % 4 = c.toNat ∧ w.getLsbD 2 = r ∧ w.toNat < 8 := by decide

/-- Settles O47, by the two layouts. -/
theorem statusAndCfgBits : Obligations.StatusAndCfgBits := by
  unfold Obligations.StatusAndCfgBits
  intro s
  obtain ⟨hbusy, hdone, hfaulted, hcorrected, hcmderr, hstatus⟩ := status_bits s
  obtain ⟨hcode, hrecheck, hcfg⟩ := configByte_bits s.recheck.isStale s.variant.code
  refine ⟨by rw [hbusy, busy_iff], hdone, by rw [hfaulted, faulted_iff], hcorrected, hcmderr, hstatus,
    ?_, ?_, ?_, ?_, hcfg⟩
  · rw [State.cfg, hcode]; cases s.variant <;> decide
  · rw [State.cfg, hcode]; cases s.variant <;> decide
  · rw [State.cfg, hcode]; cases s.variant <;> decide
  · rw [State.cfg, hrecheck]; cases s.recheck <;> decide

/-! ## Micro-operations and the sequencer -/

/-- The state a micro-operation leaves, with or without a Fault. -/
def MicroResult.state : MicroResult → State
  | .ok s => s
  | .raised s => s

/-- The sequencer touches only mode, position and DONE (45_driver.md R175). -/
theorem advance_frame (len : Nat) (r : MicroResult) :
    ∃ md ix dn, advance len r = { r.state with mode := md, idx := ix, done := dn } := by
  cases r with
  | raised s => exact ⟨s.mode, s.idx, s.done, rfl⟩
  | ok s =>
    by_cases hl : s.idx.toNat + 1 = len
    · exact ⟨.idle, 0, true, advance_ok_last hl⟩
    · exact ⟨s.mode, s.idx + 1, s.done, advance_ok_inside hl⟩

/-- Everything a micro-operation can do: the effect of its rule; or a guarded step's phases and then
nothing more, or the event record, or the event record and the Fault. -/
theorem micro_cases (m : MicroOp) (s : State) :
    micro m s = .ok (faultFree s m) ∨
    ∃ p f,
      micro m s = .ok (guardedPhases p f s) ∨
      micro m s = .ok (eventState (encode m.instr) (guardedPhases p f s)) ∨
      (failMask (guardedPhases p f s) ≠ 0 ∧
        micro m s = .raised (raiseFault (failMask (guardedPhases p f s))
          (eventState (encode m.instr) (guardedPhases p f s)).lastcorr
          (eventState (encode m.instr) (guardedPhases p f s)).unrecmask
          (eventState (encode m.instr) (guardedPhases p f s)))) := by
  cases h : guardedTransform s.rk m.instr with
  | none => exact .inl (micro_unguarded h)
  | some f =>
    obtain ⟨p, -, e⟩ := micro_guarded h
    rw [e, guardedStep]
    rcases verifyCorrect_cases (encode m.instr) (guardedPhases p f s) with
      ⟨-, hq⟩ | ⟨-, -, hok⟩ | ⟨-, hfail, hraised⟩
    · exact .inr ⟨p, f, .inl hq⟩
    · exact .inr ⟨p, f, .inr (.inl hok)⟩
    · exact .inr ⟨p, f, .inr (.inr ⟨hfail, hraised⟩)⟩

/-- The registers no micro-operation writes (45_driver.md R175). -/
theorem micro_state_frame (m : MicroOp) (s : State) :
    (micro m s).state.rk = s.rk ∧ (micro m s).state.top = s.top ∧
      (micro m s).state.rstLow = s.rstLow := by
  obtain ⟨u, hu, -, -, hrk, htop, -, -, -, -, -, hlow⟩ := micro_frame m s
  rcases hu with ⟨e, -⟩ | ⟨e, -⟩ <;> rw [e] <;> exact ⟨hrk, htop, hlow⟩

/-- What a micro-operation does to the two sticky flags: it keeps them but for a repair it records
(43_verify_correct.md R148), or it is CLRSTAT's and clears both (46_system.md R191). -/
theorem micro_state_flags (m : MicroOp) (s : State) :
    ((micro m s).state.cmderr = s.cmderr ∧
      ((micro m s).state.corrected = s.corrected ∨
        (micro m s).state.corrected = (s.corrected || (micro m s).state.lastcorr != 0))) ∨
    (m = .clrstat ∧ (micro m s).state.cmderr = false ∧ (micro m s).state.corrected = false) := by
  rcases micro_cases m s with e | ⟨p, f, e | e | ⟨-, e⟩⟩ <;> rw [e]
  · cases m with
    | clrstat => exact .inr ⟨rfl, rfl, rfl⟩
    | _ => exact .inl ⟨rfl, .inl rfl⟩
  · exact .inl ⟨rfl, .inl rfl⟩
  · exact .inl ⟨rfl, .inr rfl⟩
  · exact .inl ⟨rfl, .inr rfl⟩

/-- CLRSTAT's operation stands in no list but its own (45_driver.md R172, R173, R175). -/
theorem eq_clrstat_of_mem_microList {v : Variant} {i : Instr} (h : .clrstat ∈ microList v i) :
    i = .clrstat := by
  cases i with
  | clrstat => rfl
  | enc => revert h; cases v <;> decide
  | dec => revert h; cases v <;> decide
  | _ => simp [microList] at h

/-! ## One step of a command -/

/-- A command's step leaves the state of its entry, moved on by the sequencer. -/
theorem exec_next_frame {i : Instr} {s t : State} (h : exec i s = .next t) :
    ∃ m md ix dn, (microList s.variant i)[s.idx.toNat]? = some m ∧
      t = { (micro m s).state with mode := md, idx := ix, done := dn } := by
  obtain ⟨m, hm, rfl⟩ := exec_next_inv h
  obtain ⟨md, ix, dn, e⟩ := advance_frame (microList s.variant i).length (micro m s)
  exact ⟨m, md, ix, dn, hm, e⟩

/-- The registers no command's step writes. -/
theorem exec_frame {i : Instr} {s t : State} (h : exec i s = .next t) :
    t.rk = s.rk ∧ t.top = s.top ∧ t.rstLow = s.rstLow := by
  obtain ⟨m, md, ix, dn, -, rfl⟩ := exec_next_frame h
  exact micro_state_frame m s

/-- What a command's step does to the two sticky flags. -/
theorem exec_flags {i : Instr} {s t : State} (h : exec i s = .next t) :
    (t.cmderr = s.cmderr ∧
      (t.corrected = s.corrected ∨ t.corrected = (s.corrected || t.lastcorr != 0))) ∨
    (i = .clrstat ∧ t.cmderr = false ∧ t.corrected = false) := by
  obtain ⟨m, md, ix, dn, hm, rfl⟩ := exec_next_frame h
  rcases micro_state_flags m s with hkeep | ⟨rfl, hclear⟩
  · exact .inl hkeep
  · exact .inr ⟨eq_clrstat_of_mem_microList (List.mem_of_getElem? hm), hclear⟩

/-- Where a command's step leaves the sequencer: in FAULT at the same position, or past its entry
(45_driver.md R175). -/
theorem exec_sequencer {i : Instr} {s t : State} (h : exec i s = .next t) :
    (t.mode = .fault ∧ t.idx = s.idx ∧ t.done = false) ∨ WentOn i s t := by
  obtain ⟨m, hm, rfl⟩ := exec_next_inv h
  obtain ⟨hlt, -⟩ := List.getElem?_eq_some_iff.1 hm
  obtain ⟨u, hu, -, -, -, -, hidx, -⟩ := micro_frame m s
  rcases hu with ⟨e, hmode, hdone, -⟩ | ⟨e, hmode, hdone, -⟩ <;> rw [e]
  · exact .inr (advance_ok_wentOn hlt hidx hmode hdone)
  · exact .inl ⟨hmode, hidx, hdone⟩

/-- Settles O34: the list has no entry there. -/
theorem pastTheListStops : Obligations.PastTheListStops := by
  unfold Obligations.PastTheListStops
  intro i s h
  rw [exec_eq_runList, runList, List.getElem?_eq_none h]

/-! ## One step of the machine -/

/-- Every step that answers a next state is a reset, a move that changes no register of the block (a
CORE that waits, a read, a rising edge of a high pin), a step of the accepted command, or a host
write. -/
theorem step_effect {s t : State} (h : step s = .next t) :
    (Resets s ∧ ∃ b l,
      t = { resetEvent { s with agenda := s.agenda.tail } with rdata := b, rstLow := l }) ∨
    (s.rstLow = false ∧ ∃ rest,
      (∃ b k, t = { s with agenda := rest, rdata := b, free := k }) ∨
      (s.mode = .run ∧ ∃ i u, decode s.variant s.top = .instr i ∧
        exec i { s with agenda := rest, seu := u } = .next t) ∨
      (∃ a v, s.agenda = .write a v :: rest ∧ t = hostWrite a v { s with agenda := rest })) := by
  have core {u : Seu} {rest : List Move} (hc : coreStep u { s with agenda := rest } = .next t) :
      (∃ b k, t = { s with agenda := rest, rdata := b, free := k }) ∨
      (s.mode = .run ∧ ∃ i u, decode s.variant s.top = .instr i ∧
        exec i { s with agenda := rest, seu := u } = .next t) := by
    rcases coreStep_next_inv hc with ⟨-, rfl⟩ | ⟨hrun, i, hd, he⟩
    · exact .inl ⟨s.rdata, s.free, rfl⟩
    · exact .inr ⟨hrun, i, u, hd, he⟩
  rcases step_next_inv h with hreset | ⟨hl, hmove⟩
  · exact .inl hreset
  refine .inr ⟨hl, ?_⟩
  rcases hmove with ⟨-, hc⟩ | ⟨u, rest, -, hc⟩ | ⟨a, v, rest, ha, rfl⟩ | ⟨a, rest, -, rfl⟩ |
    ⟨rest, -, rfl⟩
  · exact ⟨s.agenda, (core hc).imp_right .inl⟩
  · exact ⟨rest, (core hc).imp_right .inl⟩
  · exact ⟨rest, .inr (.inr ⟨a, v, ha, rfl⟩)⟩
  · exact ⟨rest, .inl (hostRead_frame a { s with agenda := rest })⟩
  · exact ⟨rest, .inl ⟨s.rdata, s.free, rfl⟩⟩

end Sys2Proof.Machine
end

section
/-! The invariant of every run (10_state.md R20 to R32, 43_verify_correct.md R149, 60_exceptions.md R201):
the reset state meets it, and a step of any agent keeps it. -/
namespace Sys2Proof.Machine

/-! ## The reset state -/

/-- With RK in form, the reset state meets the invariant, whatever the data. -/
theorem inv_of_inResetState {s : State} (h : InResetState s) (hk : RkInv s) : Machine.Inv s := by
  have hidle : s.mode ≠ .fault := by rw [h.mode]; decide
  refine ⟨⟨⟨.nop, ?_⟩, fun hrun => ?_, fun _ => h.idx, fun _ => h.mode⟩,
    ⟨?_, fun n => ?_, fun _ => ⟨h.failmask, h.fcause⟩, ?_, ?_, ?_, ?_, ?_⟩, hk, fun _ => h⟩
  · rw [h.top]; rfl
  · rw [h.mode] at hrun; cases hrun
  · rw [h.lastcorr, h.unrecmask]; rfl
  · rw [h.lastcorr, h.unrecmask, h.lastdiff]; simp
  all_goals exact fun hf => absurd hf hidle

theorem resetOf_inResetState (v : Variant) (r : Recheck) : InResetState (State.resetOf v r) :=
  ⟨rfl, rfl, rfl, by simp [State.status, State.busy, State.faulted, State.resetOf]; decide,
    rfl, rfl, rfl, rfl, rfl, rfl, rfl⟩

/-- Settles O52: the reset state, with RK empty. -/
theorem resetMeetsInv : Obligations.ResetMeetsInv := by
  unfold Obligations.ResetMeetsInv
  intro v r
  exact inv_of_inResetState (resetOf_inResetState v r)
    ⟨⟨List.Pairwise.nil, nofun⟩, nofun⟩

/-- Whatever the pins are, the block that a reset leaves meets the invariant. -/
theorem inv_resetEvent (s : State) (b : Byte) (l : Bool) :
    Machine.Inv { resetEvent s with rdata := b, rstLow := l } :=
  inv_of_inResetState (resetEvent_inResetState s b l)
    ⟨Memory.wf_fill _ _, Memory.fill_inRange _ _⟩

/-- Settles O58: BUSY and FAULT are two modes, and DONE is set only in the third. -/
theorem statusExclusive : Obligations.StatusExclusive := by
  unfold Obligations.StatusExclusive
  intro s h
  obtain ⟨hbusy, hdone, hfaulted, -⟩ := status_bits s
  have hd : s.mode ≠ .idle → s.done = false := fun hm => by simpa using mt h.seq.doneIdle hm
  rw [hbusy, hdone, hfaulted, State.busy, State.faulted]
  cases hm : s.mode with
  | idle => exact .inr (.inl ⟨rfl, rfl⟩)
  | run => exact .inr (.inr ⟨hd (by simp [hm]), rfl⟩)
  | fault => exact .inl ⟨rfl, hd (by simp [hm])⟩

/-! ## What no clause reads -/

/-- With `rst_n` high no clause reads the data, the sticky flags or the fields of the agents. -/
theorem inv_unread {s : State} (X : Lanes Byte) (P : Lanes Nibble) (c e : Bool) (b : Byte) (u : Seu)
    (a : List Move) (k : Nat) (h : Machine.Inv s) (hl : s.rstLow = false) : Machine.Inv { s with
      S := X, pcode := P, corrected := c, cmderr := e, rdata := b, seu := u, agenda := a,
      free := k } :=
  ⟨{ h.seq with }, { h.records with }, { h.rk with }, fun hlow => by cases hl.symm.trans hlow⟩

/-! ## A command's step -/

/-- The sequencer's clauses: the position moves only to an entry of the same list. -/
theorem seqInv_exec {i : Instr} {s t : State} (hrun : s.mode = .run) (hs : SeqInv s)
    (hd : decode s.variant s.top = .instr i) (h : exec i s = .next t) : SeqInv t := by
  obtain ⟨hv, -⟩ := exec_parameters h
  obtain ⟨-, htop, -⟩ := exec_frame h
  rw [← hv, ← htop] at hd
  rcases exec_sequencer h with ⟨hm, -, hdone⟩ | ⟨-, hm, hidx, -⟩ | ⟨hlt, hm, hidx, hdone⟩
  · refine ⟨⟨i, hd⟩, ?_, ?_, ?_⟩ <;> simp [hm, hdone]
  · refine ⟨⟨i, hd⟩, ?_, fun _ => hidx, fun _ => hm⟩
    simp [hm]
  · refine ⟨⟨i, hd⟩, fun _ j hj => ?_, ?_, fun ht => ?_⟩
    · cases hd.symm.trans hj
      rwa [hidx, hv]
    · simp [hm, hrun]
    · have := hs.doneIdle (hdone ▸ ht)
      simp [hrun] at this

/-- Outside FAULT only the event masks and the empty fault record are claimed. -/
theorem recordInv_of_not_fault {s : State} (hm : s.mode ≠ .fault)
    (hdisjoint : s.lastcorr &&& s.unrecmask = 0)
    (hcover : ∀ n : Fin 16,
      (s.lastcorr ||| s.unrecmask).getLsbD n.val = (s.lastdiff.get n != 0))
    (hnone : s.failmask = 0 ∧ s.fcause = 0) : RecordInv s := by
  refine ⟨hdisjoint, hcover, fun _ => hnone, ?_, ?_, ?_, ?_, ?_⟩
  all_goals exact fun hf => absurd hf hm

/-- No lane has a syndrome both in the table and outside it. -/
theorem eventState_masks_disjoint (op : Byte) (s : State) :
    (eventState op s).lastcorr &&& (eventState op s).unrecmask = 0 := by
  refine mask_ext fun n => ?_
  simp only [eventState, recordEvent_lastcorr, recordEvent_unrecmask, BitVec.getLsbD_and,
    getLsbD_maskOf, matchedLanes, unmatchedLanes, Lanes.get_map]
  cases synDec ((syndromes s.S s.pcode).get n) <;> simp

/-- The recorded lanes are those with a nonzero syndrome (43_verify_correct.md R148). -/
theorem eventState_masks_cover (op : Byte) (s : State) (n : Fin 16) :
    ((eventState op s).lastcorr ||| (eventState op s).unrecmask).getLsbD n.val =
      ((eventState op s).lastdiff.get n != 0) := by
  simp only [eventState, recordEvent_lastcorr, recordEvent_unrecmask, recordEvent_lastdiff,
    BitVec.getLsbD_or, getLsbD_maskOf, matchedLanes, unmatchedLanes, Lanes.get_map]
  exact (nonzero_iff_matched_or_unmatched _).symm

/-- A syndrome in the table is the code of the bit it locates (43_verify_correct.md R144). -/
theorem eq_codeOf_of_synDec {d : Nibble} {k : Nat} (h : synDec d = some k) :
    d = codeOf (1#8 <<< k) := by
  fin_cases d <;> cases h <;> rfl

/-- The XOR of two nibbles, bit by bit. -/
theorem ofBool_append_xor : ∀ a b c d e f g h : Bool,
    (BitVec.ofBool a ++ BitVec.ofBool b ++ BitVec.ofBool c ++ BitVec.ofBool d) ^^^
      (BitVec.ofBool e ++ BitVec.ofBool f ++ BitVec.ofBool g ++ BitVec.ofBool h) =
    BitVec.ofBool (a ^^ e) ++ BitVec.ofBool (b ^^ f) ++ BitVec.ofBool (c ^^ g) ++
      BitVec.ofBool (d ^^ h) := by decide

/-- The code is linear, each of its bits being a parity of the byte (40_codec.md R101). -/
theorem codeOf_xor (b e : Byte) : codeOf (b ^^^ e) = codeOf b ^^^ codeOf e := by
  simp only [codeOf, ofBool_append_xor, BitVec.getLsbD_xor, Bool.xor_assoc, Bool.xor_comm,
    Bool.xor_left_comm]

/-- Once the corrector has flipped what the syndrome locates, a byte disagrees with its predicted code
exactly if its syndrome was outside the table (43_verify_correct.md R145, R146). -/
theorem recheck_correctByte (b : Byte) (p : Nibble) :
    (codeOf (correctByte b (codeOf b ^^^ p)) ^^^ p != 0) =
      (codeOf b ^^^ p != 0 && (synDec (codeOf b ^^^ p)).isNone) := by
  cases h : synDec (codeOf b ^^^ p) with
  | none => simp [correctByte, h]
  | some k =>
    have hk := eq_codeOf_of_synDec h
    simp only [correctByte, h, codeOf_xor, ← hk]
    simp

/-- Under REFRESH the failing bytes are the unrecognised ones (43_verify_correct.md R149 (a)). -/
theorem failMask_of_refresh (op : Byte) {s : State} (h : s.recheck = .refresh) :
    failMask s = (eventState op s).unrecmask := by
  refine mask_ext fun n => ?_
  simp only [failMask, eventState, recordEvent_unrecmask, h, recheckSyndromes, unmatchedLanes,
    getLsbD_maskOf, Lanes.get_map, Lanes.get_zipWith, get_syndromes]
  exact recheck_correctByte _ _

/-- Under STALE they are all the recorded ones (R149 (b)). -/
theorem failMask_of_stale (op : Byte) {s : State} (h : s.recheck = .stale) :
    failMask s = (eventState op s).lastcorr ||| (eventState op s).unrecmask := by
  refine mask_ext fun n => ?_
  rw [eventState_masks_cover, failMask, h, getLsbD_maskOf, Lanes.get_map]
  rfl

/-- An event step without a Fault leaves a record that meets the clauses. -/
theorem recordInv_eventState (op : Byte) {s : State} (hm : s.mode ≠ .fault) (h : RecordInv s) :
    RecordInv (eventState op s) :=
  recordInv_of_not_fault hm (eventState_masks_disjoint op s) (eventState_masks_cover op s)
    (h.noFault hm)

/-- So does the entry into FAULT, when `op` is the word of the list entry that ran
(60_exceptions.md R204). -/
theorem recordInv_raiseFault {op : Byte} {s : State} (hfail : failMask s ≠ 0)
    (hop : ∀ i, decode s.variant s.top = .instr i →
      (microList s.variant i)[s.idx.toNat]?.map (fun m => encode m.instr) = some op) :
    RecordInv (raiseFault (failMask s) (eventState op s).lastcorr (eventState op s).unrecmask
      (eventState op s)) where
  masksDisjoint := eventState_masks_disjoint op s
  masksCover := eventState_masks_cover op s
  noFault h := absurd rfl h
  failRefresh _ h := failMask_of_refresh op h
  failStale _ h := failMask_of_stale op h
  failSome _ := hfail
  causeOf _ := rfl
  faultStep _ := ⟨rfl, hop⟩

/-- Outside FAULT the rule of an unguarded entry keeps the records or clears the event record. -/
theorem recordInv_faultFree (m : MicroOp) {s : State} (hm : s.mode ≠ .fault) (h : RecordInv s) :
    RecordInv (faultFree s m) := by
  cases m with
  | clrstat =>
    exact recordInv_of_not_fault hm (by simp [faultFree]) (by simp [faultFree]) (h.noFault hm)
  | _ => exact { h with }

/-- The sequencer goes on to no FAULT, and the records' clauses read nothing else of it. -/
theorem recordInv_advance_ok (len : Nat) {s : State} (hm : s.mode ≠ .fault) (h : RecordInv s) :
    RecordInv (advance len (.ok s)) := by
  by_cases hl : s.idx.toNat + 1 = len
  · rw [advance_ok_last hl]
    exact recordInv_of_not_fault nofun h.masksDisjoint h.masksCover (h.noFault hm)
  · rw [advance_ok_inside hl]
    exact recordInv_of_not_fault hm h.masksDisjoint h.masksCover (h.noFault hm)

/-- The records' clauses, case by case of what the entry did. -/
theorem recordInv_exec {i : Instr} {s t : State} (hrun : s.mode = .run) (hr : RecordInv s)
    (hd : decode s.variant s.top = .instr i) (h : exec i s = .next t) : RecordInv t := by
  obtain ⟨m, hentry, rfl⟩ := exec_next_inv h
  have hm : s.mode ≠ .fault := by simp [hrun]
  rcases micro_cases m s with e | ⟨p, f, e | e | ⟨hfail, e⟩⟩ <;> rw [e]
  · have hmode : (faultFree s m).mode = s.mode := by cases m <;> rfl
    exact recordInv_advance_ok _ (hmode ▸ hm) (recordInv_faultFree m hm hr)
  · exact recordInv_advance_ok _ hm { hr with }
  · exact recordInv_advance_ok _ hm (recordInv_eventState _ hm { hr with })
  · refine recordInv_raiseFault hfail fun j hj => ?_
    cases hd.symm.trans hj
    exact congrArg _ hentry

/-- A command's step keeps the invariant, under every upset. -/
theorem inv_exec {i : Instr} {s t : State} (hrun : s.mode = .run) (hl : s.rstLow = false)
    (hs : Machine.Inv s) (hd : decode s.variant s.top = .instr i) (h : exec i s = .next t) :
    Machine.Inv t := by
  obtain ⟨hv, -⟩ := exec_parameters h
  obtain ⟨hrk, -, hlow⟩ := exec_frame h
  refine ⟨seqInv_exec hrun hs.seq hd h, recordInv_exec hrun hs.records hd h, ?_, ?_⟩
  · exact ⟨hrk ▸ hs.rk.canonical, hrk ▸ hv ▸ hs.rk.inRange⟩
  · simp [hlow, hl]

/-! ## A host write -/

/-- An accepted command starts at the first entry of its list, which is never empty. -/
theorem inv_acceptCommand {i : Instr} {w : Byte} {s : State} (hm : s.mode ≠ .fault)
    (hl : s.rstLow = false) (hs : Machine.Inv s) (hd : decode s.variant w = .instr i) :
    Machine.Inv (acceptCommand w s) := by
  obtain ⟨-, hr, hk, -⟩ := hs
  refine ⟨⟨⟨i, hd⟩, fun _ j _ => microList_length_pos _ j, nofun, nofun⟩, ?_, { hk with }, ?_⟩
  · exact recordInv_of_not_fault nofun hr.masksDisjoint hr.masksCover (hr.noFault hm)
  · simp [hl]

/-- A write to RK at an offset RK has keeps its form. -/
theorem rkInv_write {s : State} {b : Nat} (hb : b < s.variant.rkBytes) (v : Byte) (h : RkInv s) :
    RkInv { s with rk := Memory.write s.rk b v } where
  canonical := Memory.wf_write h.canonical b v
  inRange c hc := by
    rcases Memory.mem_write hc with hold | rfl
    · exact h.inRange c hold
    · exact hb

/-- A host write in any mode keeps the invariant. -/
theorem inv_hostWrite (a : BitVec 10) (v : Byte) {s : State} (hl : s.rstLow = false)
    (hs : Machine.Inv s) : Machine.Inv (hostWrite a v s) := by
  rcases hostWrite_cases a v s with
    e | ⟨-, n, -, e⟩ | ⟨-, b, hb, -, e⟩ | ⟨hidle, -, i, hd, e⟩ | ⟨-, e⟩ <;> rw [e]
  · exact hs
  · exact inv_unread _ _ _ _ _ _ _ _ hs hl
  · exact ⟨{ hs.seq with }, { hs.records with }, rkInv_write hb v hs.rk, by simp [hl]⟩
  · exact inv_acceptCommand (by simp [hidle]) hl hs hd
  · exact inv_unread _ _ _ _ _ _ _ _ hs hl

/-- Settles O53, by what the step was. -/
theorem stepKeepsInv : Obligations.StepKeepsInv := by
  unfold Obligations.StepKeepsInv
  intro s t hs h
  rcases step_effect h with
    ⟨-, b, l, rfl⟩ | ⟨hl, rest, ⟨b, k, rfl⟩ | ⟨hrun, i, u, hd, he⟩ | ⟨a, v, -, rfl⟩⟩
  · exact inv_resetEvent _ b l
  · exact inv_unread _ _ _ _ _ _ _ _ hs hl
  · exact inv_exec (s := { s with agenda := rest, seu := u }) hrun hl
      (inv_unread _ _ _ _ _ _ _ _ hs hl) hd he
  · exact inv_hostWrite a v hl (inv_unread _ _ _ _ _ _ _ _ hs hl)

end Sys2Proof.Machine
end

section
/-! Reset as the host sees it: what a reset leaves, when it ends, and what a read returns meanwhile
(10_state.md R36, 20_memory.md R51, R56, 70_reset_and_hazards.md R230). -/
namespace Sys2Proof.Machine

/-! ## Which move ends a reset -/

theorem moveInReset_rstLow_iff (m : Move) {s : State} (hl : s.rstLow = true) :
    (moveInReset m s).rstLow = false ↔ m = .rstRise := by
  cases m with
  | read a =>
    rw [moveInReset, hostRead_idle (resetEvent_mode s)]
    simp [hl]
  | _ => simp [moveInReset, hl]

/-- Only the rising edge ends a reset (70_reset_and_hazards.md R230). -/
theorem rstLow_iff_of_resets {s t : State} (hr : Resets s) (h : step s = .next t) :
    t.rstLow = false ↔ ∃ rest, s.agenda = .rstRise :: rest := by
  by_cases hl : s.rstLow = true
  · rw [step_of_rstLow hl, stepInReset] at h
    cases h
    split
    · rename_i ha
      simp [ha, hl]
    · rename_i m rest ha
      simp [moveInReset_rstLow_iff m (s := { s with agenda := rest }) hl, ha]
  · obtain ⟨rest, ha⟩ := hr.resolve_left hl
    rw [step_of_rstHigh (by simpa using hl), stepRunning, ha] at h
    cases h
    simp [moveInReset, ha]

/-- Settles O50: a step that resets leaves the reset state, and only a rising edge lifts the pin. -/
theorem resetEventValues : Obligations.ResetEventValues := by
  unfold Obligations.ResetEventValues
  refine fun s => ⟨fun hr => ?_, fun rest hl ha => ?_⟩
  · obtain ⟨b, l, e⟩ := step_of_resets hr
    have hin := resetEvent_inResetState { s with agenda := s.agenda.tail } b l
    exact ⟨_, e, hin.mode, hin.idx, hin.top, hin.status, cfg_congr rfl rfl, hin.lastdiff, hin.lastcorr,
      hin.unrecmask, hin.estep, hin.eindex, hin.failmask, hin.fcause, rfl, rstLow_iff_of_resets hr e⟩
  · rw [step_of_rstHigh hl, stepRunning, ha]

/-! ## The register at an address (20_memory.md R51) -/

section
variable (v : Variant) {a : BitVec 10}

theorem rkBytes_eq : v.rkBytes = 16 * (v.nr + 1) := by
  rw [Variant.rkBytes]; omega

theorem regAt_state {n : Fin 16} (h : a.toNat = n.val) : regAt v a = .state n := by
  have hn : a.toNat < 0x010 := by omega
  simp [regAt, regOf, h]

theorem regAt_control (h : 0x010 ≤ a.toNat) (h' : a.toNat < 0x020) :
    regAt v a = controlReg a.toNat := by
  simp [regAt, regOf, h', Nat.not_lt.2 h]

theorem regAt_pcode {j : Fin 8} (h : a.toNat = 0x020 + j.val) : regAt v a = .pcode j := by
  rw [regAt, regOf, dif_neg (by omega), if_neg (by omega), if_pos (by omega)]
  exact congrArg Reg.pcode (Fin.ext (by rw [Fin.val_ofNat]; omega))

theorem regAt_lastdiff {j : Fin 8} (h : a.toNat = 0x028 + j.val) : regAt v a = .lastdiff j := by
  rw [regAt, regOf, dif_neg (by omega), if_neg (by omega), if_neg (by omega), if_pos (by omega)]
  exact congrArg Reg.lastdiff (Fin.ext (by rw [Fin.val_ofNat]; omega))

theorem regAt_rk {b : Nat} (hb : b < v.rkBytes) (h : a.toNat = 0x100 + b) : regAt v a = .rk b := by
  rw [regAt, regOf, dif_neg (by omega), if_neg (by omega), if_neg (by omega), if_neg (by omega),
    if_pos (by omega)]
  exact congrArg Reg.rk (by omega)

theorem regAt_reserved
    (h : 0x030 ≤ a.toNat ∧ a.toNat < 0x100 ∨ 0x100 + v.rkBytes ≤ a.toNat) :
    regAt v a = .reserved := by
  rw [regAt, regOf, dif_neg (by omega), if_neg (by omega), if_neg (by omega), if_neg (by omega),
    if_neg (by omega)]

end

/-- A packed byte holds its even lane below its odd one (20_memory.md R52 (b)). -/
theorem packByte_toNat (m : Lanes Nibble) (j : Fin 8) :
    (packByte m j).toNat = (m.get (evenLane j)).toNat + 16 * (m.get (oddLane j)).toNat := by
  have append : ∀ x y : Nibble, (x ++ y : Byte).toNat = y.toNat + 16 * x.toNat := by decide
  exact append _ _

/-- Byte `2*c + r` of a packed matrix holds rows `2*r` and `2*r + 1` of column `c`. -/
theorem packByte_entry (m : Lanes Nibble) {c r : Nat} (hr : r < 2) {j : Fin 8}
    (hj : j.val = 2 * c + r) :
    (packByte m j).toNat = (m.entry c (2 * r)).toNat + 16 * (m.entry c (2 * r + 1)).toNat := by
  have e1 : (evenLane j).val / 4 = c := by simp only [evenLane]; omega
  have e2 : (evenLane j).val % 4 = 2 * r := by simp only [evenLane]; omega
  have o1 : (oddLane j).val / 4 = c := by simp only [oddLane]; omega
  have o2 : (oddLane j).val % 4 = 2 * r + 1 := by simp only [oddLane]; omega
  rw [packByte_toNat, Lanes.get, Lanes.get, e1, e2, o1, o2]

/-! ## Reads while `rst_n` is low -/

/-- In the reset state the registers from 0x010 to 0x01F other than CFG hold zero. -/
theorem regByte_controlReg_of_inResetState {s : State} (h : InResetState s) {a : Nat}
    (ha : a ≠ 0x012) :
    regByte s (controlReg a) = 0 := by
  obtain ⟨-, -, htop, hstatus, -, hcorr, hunrec, hestep, heindex, hfail, hcause⟩ := h
  unfold controlReg
  split <;> simp_all [regByte, maskByte]

/-- In the reset state LASTDIFF reads as zero. -/
theorem regByte_lastdiff_of_inResetState {s : State} (h : InResetState s) (j : Fin 8) :
    regByte s (.lastdiff j) = 0 := by
  rw [regByte, h.lastdiff, packByte, Lanes.get_fill, Lanes.get_fill]
  rfl

/-- Settles O51: the block answers from the reset state, register by register. -/
theorem readWhileReset : Obligations.ReadWhileReset := by
  unfold Obligations.ReadWhileReset
  intro s addr rest hl ha
  rw [← rkBytes_eq s.variant, step_of_rstLow hl, stepInReset, ha]
  dsimp only [moveInReset]
  rw [hostRead_idle (resetEvent_mode _)]
  generalize hu : resetEvent { s with agenda := rest } = u
  have hvariant : u.variant = s.variant := hu ▸ rfl
  have hrecheck : u.recheck = s.recheck := hu ▸ rfl
  have hin (b : Byte) : InResetState { u with rdata := b } :=
    hu ▸ resetEvent_inResetState _ b s.rstLow
  have hreset : InResetState u := hin u.rdata
  have at_reg {r : Reg} (hr : regAt s.variant addr = r) :
      regByte u (regAt u.variant addr) = regByte u r := by rw [hvariant, hr]
  refine ⟨_, rfl, hin _, hu ▸ hl, hu ▸ rfl, fun n hn => at_reg (regAt_state _ hn), ?_, ?_, ?_, ?_,
    fun a hlt hat => at_reg (regAt_rk _ hlt hat),
    fun hout => at_reg (regAt_reserved _ (.inr hout))⟩
  · rintro rfl
    exact cfg_congr hvariant hrecheck
  · intro hlo hhi hne
    exact (at_reg (regAt_control _ hlo hhi)).trans
      (regByte_controlReg_of_inResetState hreset fun h => hne (BitVec.eq_of_toNat_eq h))
  · intro c r hc hr hat
    have hreg := at_reg
      (regAt_pcode _ (j := ⟨2 * c + r, by omega⟩) (hat.trans (Nat.add_assoc _ _ _)))
    exact (congrArg BitVec.toNat hreg).trans (packByte_entry u.pcode hr rfl)
  · intro hlo hhi
    by_cases hd : addr.toNat < 0x030
    · exact (at_reg (regAt_lastdiff _ (j := ⟨addr.toNat - 0x028, by omega⟩)
        (Nat.add_sub_of_le hlo).symm)).trans (regByte_lastdiff_of_inResetState hreset _)
    · exact at_reg (regAt_reserved _ (.inl ⟨by omega, hhi⟩))

end Sys2Proof.Machine
end

section
/-! Who changes what over one step: the data state (10_state.md R20, R21, R32) and the sticky and DONE
bits of STATUS (R24). -/
namespace Sys2Proof.Machine

/-! ## The data state -/

/-- RK is behind a host write in IDLE, at an address of its own (20_memory.md R57). -/
theorem hostWrite_rk_ne {a : BitVec 10} {v : Byte} {s : State} (h : (hostWrite a v s).rk ≠ s.rk) :
    s.mode = .idle ∧ 0x100 ≤ a.toNat ∧ a.toNat < 0x100 + s.variant.rkBytes := by
  rcases hostWrite_cases a v s with
    e | ⟨-, n, -, e⟩ | ⟨hidle, b, hb, ha, -⟩ | ⟨-, -, i, -, e⟩ | ⟨-, e⟩
  case inr.inr.inl => exact ⟨hidle, by omega, by omega⟩
  all_goals exact absurd (congrArg State.rk e) h

/-- State is behind a host write in IDLE, at an address of its own. -/
theorem hostWrite_S_ne {a : BitVec 10} {v : Byte} {s : State} (h : (hostWrite a v s).S ≠ s.S) :
    s.mode = .idle ∧ a.toNat < 0x010 := by
  rcases hostWrite_cases a v s with
    e | ⟨hidle, n, hn, -⟩ | ⟨-, b, -, -, e⟩ | ⟨-, -, i, -, e⟩ | ⟨-, e⟩
  case inr.inl => exact ⟨hidle, by omega⟩
  all_goals exact absurd (congrArg State.S e) h

/-- No host write reaches PCODE. -/
theorem hostWrite_pcode (a : BitVec 10) (v : Byte) (s : State) : (hostWrite a v s).pcode = s.pcode := by
  rcases hostWrite_cases a v s with
    e | ⟨-, n, -, e⟩ | ⟨-, b, -, -, e⟩ | ⟨-, -, i, -, e⟩ | ⟨-, e⟩ <;>
    exact (congrArg State.pcode e :)

/-- Settles O56, by what the step was: only a command's step and a host write touch the data. -/
theorem dataWriters : Obligations.DataWriters := by
  unfold Obligations.DataWriters
  intro s t h hr
  rw [← rkBytes_eq s.variant]
  rcases step_effect h with
    ⟨hreset, -⟩ | ⟨-, rest, ⟨b, k, rfl⟩ | ⟨hrun, i, u, -, he⟩ | ⟨a, v, ha, rfl⟩⟩
  · exact absurd hreset hr
  · exact ⟨fun hne => absurd rfl hne, fun hne => absurd rfl hne, fun hne => absurd rfl hne⟩
  · obtain ⟨hrk, -⟩ := exec_frame he
    exact ⟨fun hne => absurd hrk hne, fun _ => hrun, fun _ => .inl hrun⟩
  · refine ⟨fun hne => ?_, fun hne => absurd (hostWrite_pcode a v _) hne, fun hne => ?_⟩
    · obtain ⟨hidle, hlo, hhi⟩ := hostWrite_rk_ne hne
      exact ⟨hidle, a, v, rest, ha, hlo, hhi⟩
    · obtain ⟨hidle, hlo⟩ := hostWrite_S_ne hne
      exact .inr ⟨hidle, a, v, rest, ha, hlo⟩

/-! ## CORRECTED, CMDERR and DONE -/

/-- A host write never touches CORRECTED. -/
theorem hostWrite_corrected (a : BitVec 10) (v : Byte) (s : State) :
    (hostWrite a v s).corrected = s.corrected := by
  rcases hostWrite_cases a v s with
    e | ⟨-, n, -, e⟩ | ⟨-, b, -, -, e⟩ | ⟨-, -, i, -, e⟩ | ⟨-, e⟩ <;>
    exact (congrArg State.corrected e :)

/-- What a host write does to CMDERR: nothing, or it sets it, while BUSY (20_memory.md R58) or as a
refused word at CMD (30_encoding.md R88). -/
theorem hostWrite_cmderr (a : BitVec 10) (v : Byte) (s : State) :
    (hostWrite a v s).cmderr = s.cmderr ∨
    ((hostWrite a v s).cmderr = true ∧
      (s.mode = .run ∨ s.mode = .idle ∧ a = 0x010 ∧ ∃ why, decode s.variant v = .illegal why)) := by
  rw [hostWrite]
  split
  · rename_i hidle
    rcases regAt_cases s.variant a with ⟨n, -, hr⟩ | ⟨hc, hr⟩ | ⟨b, -, -, hr⟩ | ⟨-, hr⟩
    · rw [hr]; exact .inl rfl
    · rw [hr, writeReg, issueCommand]
      split
      · exact .inl rfl
      · exact .inr ⟨rfl, .inr ⟨hidle, hc, _, ‹_›⟩⟩
    · rw [hr]; exact .inl rfl
    · rw [hr]; exact .inl rfl
  · exact .inr ⟨rfl, .inl ‹_›⟩
  · exact .inl rfl

/-- What a host write does to DONE: nothing, or it clears it as an accepted command (30_encoding.md
R81). -/
theorem hostWrite_done (a : BitVec 10) (v : Byte) (s : State) :
    (hostWrite a v s).done = s.done ∨
    ((hostWrite a v s).done = false ∧ s.mode = .idle ∧ a = 0x010 ∧
      ∃ i, decode s.variant v = .instr i) := by
  rcases hostWrite_cases a v s with
    e | ⟨-, n, -, e⟩ | ⟨-, b, -, -, e⟩ | ⟨hidle, ha, i, hd, e⟩ | ⟨-, e⟩ <;> rw [e]
  case inr.inr.inr.inl => exact .inr ⟨rfl, hidle, ha, i, hd⟩
  all_goals exact .inl rfl

/-- What a command's step does to DONE: it keeps it, clears it on the way to FAULT, or sets it on the
way to IDLE (45_driver.md R175). -/
theorem exec_done {i : Instr} {s t : State} (h : exec i s = .next t) :
    t.done = s.done ∨ t.done = false ∨ (t.done = true ∧ t.mode = .idle) := by
  rcases exec_sequencer h with ⟨-, -, hdone⟩ | ⟨-, hm, -, hdone⟩ | ⟨-, -, -, hdone⟩
  · exact .inr (.inl hdone)
  · exact .inr (.inr ⟨hdone, hm⟩)
  · exact .inl hdone

/-- A flag that a step keeps is neither set nor cleared. -/
theorem kept_flag {x y : Bool} {P Q : Prop} (h : y = x) :
    (x = false → y = true → P) ∧ (x = true → y = false → Q) := by
  subst h
  cases y <;> simp

/-- A flag that a step leaves set is not cleared by it. -/
theorem set_flag {x y : Bool} {P Q : Prop} (h : y = true) (p : P) :
    (x = false → y = true → P) ∧ (x = true → y = false → Q) :=
  ⟨fun _ _ => p, fun _ ht => (nomatch h.symm.trans ht)⟩

/-- A flag that a step leaves clear is not set by it. -/
theorem cleared_flag {x y : Bool} {P Q : Prop} (h : y = false) (q : x = true → Q) :
    (x = false → y = true → P) ∧ (x = true → y = false → Q) :=
  ⟨fun _ ht => (nomatch h.symm.trans ht), fun hs _ => q hs⟩

/-- Who sets and who clears CORRECTED (10_state.md R24, 43_verify_correct.md R148). -/
theorem step_corrected {s t : State} (h : step s = .next t) :
    (s.corrected = false → t.corrected = true → s.mode = .run ∧ t.lastcorr ≠ 0) ∧
    (s.corrected = true → t.corrected = false →
      Resets s ∨ (s.mode = .run ∧ decode s.variant s.top = .instr .clrstat)) := by
  rcases step_effect h with
    ⟨hreset, b, l, rfl⟩ | ⟨-, rest, ⟨b, k, rfl⟩ | ⟨hrun, i, u, hd, he⟩ | ⟨a, v, -, rfl⟩⟩
  · exact cleared_flag rfl fun _ => .inl hreset
  · exact kept_flag rfl
  · rcases exec_flags he with ⟨-, hc | hc⟩ | ⟨rfl, -, hc⟩
    · exact kept_flag hc
    · exact ⟨fun hs ht => ⟨hrun, by simpa [hs, hc] using ht⟩,
        fun hs ht => by simp [hs, hc] at ht⟩
    · exact cleared_flag hc fun _ => .inr ⟨hrun, hd⟩
  · exact kept_flag (hostWrite_corrected a v _)

/-- Who sets and who clears CMDERR (10_state.md R24). -/
theorem step_cmderr {s t : State} (h : step s = .next t) :
    (s.cmderr = false → t.cmderr = true → s.rstLow = false ∧
      ∃ addr v rest, s.agenda = .write addr v :: rest ∧
        (s.mode = .run ∨
          s.mode = .idle ∧ addr = 0x010 ∧ ∃ why, decode s.variant v = .illegal why)) ∧
    (s.cmderr = true → t.cmderr = false →
      Resets s ∨ (s.mode = .run ∧ decode s.variant s.top = .instr .clrstat)) := by
  rcases step_effect h with
    ⟨hreset, b, l, rfl⟩ | ⟨hl, rest, ⟨b, k, rfl⟩ | ⟨hrun, i, u, hd, he⟩ | ⟨a, v, ha, rfl⟩⟩
  · exact cleared_flag rfl fun _ => .inl hreset
  · exact kept_flag rfl
  · rcases exec_flags he with ⟨hc, -⟩ | ⟨rfl, hc, -⟩
    · exact kept_flag hc
    · exact cleared_flag hc fun _ => .inr ⟨hrun, hd⟩
  · rcases hostWrite_cmderr a v { s with agenda := rest } with hc | ⟨hc, hwhy⟩
    · exact kept_flag hc
    · exact set_flag hc ⟨hl, a, v, rest, ha, hwhy⟩

/-- Who sets and who clears DONE (10_state.md R24). -/
theorem step_done {s t : State} (h : step s = .next t) :
    (s.done = false → t.done = true → s.mode = .run ∧ t.mode = .idle) ∧
    (s.done = true → t.done = false → Machine.Inv s →
      Resets s ∨ (s.mode = .idle ∧ ∃ w rest i, s.agenda = .write 0x010 w :: rest ∧
        decode s.variant w = .instr i)) := by
  rcases step_effect h with
    ⟨hreset, b, l, rfl⟩ | ⟨-, rest, ⟨b, k, rfl⟩ | ⟨hrun, i, u, -, he⟩ | ⟨a, v, ha, rfl⟩⟩
  · exact cleared_flag rfl fun _ _ => .inl hreset
  · exact kept_flag rfl
  · rcases exec_done he with hdone | hdone | ⟨hdone, hm⟩
    · exact kept_flag hdone
    · exact cleared_flag hdone fun hs hinv =>
        (nomatch hrun.symm.trans (hinv.seq.doneIdle hs))
    · exact set_flag hdone ⟨hrun, hm⟩
  · rcases hostWrite_done a v { s with agenda := rest } with hdone | ⟨hdone, hidle, rfl, i, hd⟩
    · exact kept_flag hdone
    · exact cleared_flag hdone fun _ _ => .inr ⟨hidle, v, rest, i, ha, hd⟩

/-- Settles O59, flag by flag. -/
theorem statusBitsChange : Obligations.StatusBitsChange := by
  unfold Obligations.StatusBitsChange
  intro s t h
  obtain ⟨hsetCorrected, hclearCorrected⟩ := step_corrected h
  obtain ⟨hsetCmderr, hclearCmderr⟩ := step_cmderr h
  obtain ⟨hsetDone, hclearDone⟩ := step_done h
  exact ⟨hsetCorrected, hclearCorrected, hsetCmderr, hclearCmderr, hsetDone,
    fun hinv hs ht => hclearDone hs ht hinv⟩

end Sys2Proof.Machine
end

section
/-! The host's accesses in every mode (20_memory.md R51, R52, R56 to R60): what a write changes in IDLE,
what a read returns in IDLE and in FAULT, and what is left of both in RUN and in FAULT. -/
namespace Sys2Proof

theorem Lanes.get_set {α : Type} (m : Lanes α) (n p : Fin 16) (v : α) :
    (m.set n v).get p = if p = n then v else m.get p := by
  split
  · next h => rw [h, get_set_same]
  · next h => exact get_set_of_ne m v h

namespace Machine

/-! ## One step of the host, mode by mode -/

/-- What a register holds does not depend on the moves to come. -/
theorem regByte_agenda (s : State) (rest : List Move) (r : Reg) :
    regByte { s with agenda := rest } r = regByte s r := by
  cases r <;> rfl

section
variable {a : BitVec 10} {v : Byte} {s : State} {rest : List Move}

theorem step_write (hl : s.rstLow = false) (ha : s.agenda = .write a v :: rest) :
    step s = .next (hostWrite a v { s with agenda := rest }) := by
  rw [step_of_rstHigh hl, stepRunning, ha]

theorem step_read (hl : s.rstLow = false) (ha : s.agenda = .read a :: rest) :
    step s = .next (hostRead a { s with agenda := rest }) := by
  rw [step_of_rstHigh hl, stepRunning, ha]

theorem hostRead_run (hrun : s.mode = .run) : hostRead a s = busyRead s (regAt s.variant a) := by
  rw [hostRead, hrun]

theorem step_write_idle (hl : s.rstLow = false) (hidle : s.mode = .idle)
    (ha : s.agenda = .write a v :: rest) :
    step s = .next (writeReg { s with agenda := rest } v (regAt s.variant a)) := by
  rw [step_write hl ha, hostWrite]
  simp only [hidle]

theorem step_write_run (hl : s.rstLow = false) (hrun : s.mode = .run)
    (ha : s.agenda = .write a v :: rest) :
    step s = .next { s with agenda := rest, cmderr := true } := by
  rw [step_write hl ha, hostWrite]
  simp only [hrun, setCmderr]

theorem step_write_fault (hl : s.rstLow = false) (hfault : s.mode = .fault)
    (ha : s.agenda = .write a v :: rest) :
    step s = .next { s with agenda := rest } := by
  rw [step_write hl ha, hostWrite]
  simp only [hfault]

/-- R59: a read in FAULT works as one in IDLE. -/
theorem step_read_of_ne_run (hl : s.rstLow = false) (hne : s.mode ≠ .run)
    (ha : s.agenda = .read a :: rest) :
    step s = .next { s with agenda := rest, rdata := regByte s (regAt s.variant a) } := by
  rw [step_read hl ha, ← regByte_agenda s rest, hostRead]
  cases hm : s.mode with
  | run => exact absurd hm hne
  | _ => simp only

/-- R58: STATUS reads as it is while BUSY. -/
theorem step_read_status_run (hl : s.rstLow = false) (hrun : s.mode = .run)
    (ha : s.agenda = .read 0x011 :: rest) :
    step s = .next { s with agenda := rest, rdata := s.status } := by
  rw [step_read hl ha, hostRead_run (s := { s with agenda := rest }) hrun]
  rfl

theorem coreStep_of_ne_run (u : Seu) (hne : s.mode ≠ .run) : coreStep u s = .next s := by
  cases hm : s.mode with
  | run => exact absurd hm hne
  | _ => rw [coreStep, hm]

/-- R81: a legal word written to CMD in IDLE is accepted. -/
theorem issueCommand_of_legal {i : Instr} (h : decode s.variant v = .instr i) :
    issueCommand v s = acceptCommand v s := by
  rw [issueCommand, h]

end

/-! ## Writes in IDLE -/

/-- R57, R60: CFG, the records and the reserved addresses ignore a write. -/
theorem writeReg_ignored (s : State) (v : Byte) {a : BitVec 10}
    (h : 0x010 < a.toNat ∧ a.toNat < 0x100 ∨ 0x100 + s.variant.rkBytes ≤ a.toNat) :
    writeReg s v (regAt s.variant a) = s := by
  rcases regAt_cases s.variant a with ⟨n, hn, -⟩ | ⟨hcmd, -⟩ | ⟨b, hb, hab, -⟩ | ⟨-, hignored⟩
  · omega
  · have : a.toNat = 0x010 := congrArg BitVec.toNat hcmd
    omega
  · omega
  · exact hignored s v

/-- Settles O43: the register at the address takes the write, and no other does. -/
theorem idleWrite : Obligations.IdleWrite := by
  unfold Obligations.IdleWrite
  intro s a v rest hl hidle hwf ha
  rw [← rkBytes_eq s.variant, step_write_idle hl hidle ha]
  refine ⟨fun n hn => ?_, fun b hb hab => ?_, ?_, fun hout => ?_⟩
  · rw [regAt_state _ hn]
    exact ⟨_, rfl, rfl, fun p => Lanes.get_set s.S n p v⟩
  · rw [regAt_rk _ hb hab]
    exact ⟨_, rfl, rfl, fun c => Memory.read_write s.rk hwf b c v⟩
  · rintro rfl i hi
    exact congrArg _ (issueCommand_of_legal hi)
  · exact congrArg _ (writeReg_ignored { s with agenda := rest } v hout)

/-! ## Every move in FAULT, but reset -/

/-- Settles O45, move by move: in FAULT a write is ignored, the CORE waits and a read shows a byte. -/
theorem faultIsSticky : Obligations.FaultIsSticky := by
  unfold Obligations.FaultIsSticky
  intro s hfault hr
  have hne : s.mode ≠ .run := by simp [hfault]
  have hl : s.rstLow = false := by simpa using fun hl => hr (.inl hl)
  cases ha : s.agenda with
  | nil =>
    have hs : { s with agenda := [] } = s := by rw [← ha]
    refine ⟨s, ?_, hs.symm, fun _ => rfl⟩
    rw [step_of_rstHigh hl, stepRunning, ha]
    exact coreStep_of_ne_run .none hne
  | cons m rest =>
    cases m with
    | core u =>
      refine ⟨{ s with agenda := rest }, ?_, rfl, fun _ => rfl⟩
      rw [step_of_rstHigh hl, stepRunning, ha]
      exact coreStep_of_ne_run u hne
    | write a v => exact ⟨_, step_write_fault hl hfault ha, rfl, fun _ => rfl⟩
    | read a => exact ⟨_, step_read_of_ne_run hl hne ha, rfl, fun h => absurd rfl (h a rest)⟩
    | rstFall => exact absurd (.inr ⟨rest, ha⟩) hr
    | rstRise =>
      refine ⟨{ s with agenda := rest }, ?_, rfl, fun _ => rfl⟩
      rw [step_of_rstHigh hl, stepRunning, ha]

/-! ## Reads in IDLE and in FAULT -/

/-- R52 (a): the low byte of a mask register. -/
theorem maskByte_low_toNat (m : BitVec 16) : (maskByte m false).toNat = m.toNat % 256 := by
  simp [maskByte]

/-- R52 (a): the high byte of a mask register. -/
theorem maskByte_high_toNat (m : BitVec 16) : (maskByte m true).toNat = m.toNat / 256 := by
  have := m.isLt
  simp only [maskByte, if_true, BitVec.extractLsb'_toNat, Nat.shiftRight_eq_div_pow]
  omega

/-- R51: the addresses between the masks and PCODE name no register. -/
theorem controlReg_reserved {a : Nat} (h : 0x01C ≤ a) : controlReg a = .reserved := by
  unfold controlReg
  split
  any_goals omega
  rfl

/-- Settles O46, address by address along the map of R51. -/
theorem readRegisters : Obligations.ReadRegisters := by
  unfold Obligations.ReadRegisters
  intro s a rest hl hmode ha
  have hne : s.mode ≠ .run := by rcases hmode with h | h <;> simp [h]
  have at_reg {r : Reg} (hr : regAt s.variant a = r) :
      regByte s (regAt s.variant a) = regByte s r := congrArg _ hr
  rw [← rkBytes_eq s.variant]
  refine ⟨_, step_read_of_ne_run hl hne ha, fun n hn => at_reg (regAt_state _ hn),
    ?cmd, ?status, ?cfg, ?fcause, ?estep, ?eindex, ?failLow, ?failHigh, ?corrLow, ?corrHigh,
    ?unrecLow, ?unrecHigh, fun c r hc hr hat => ?pcode, fun c r hc hr hat => ?lastdiff,
    fun b hb hat => at_reg (regAt_rk _ hb hat), fun hout => at_reg (r := .reserved) ?reserved⟩
  case cmd | status | cfg | fcause | estep | eindex => rintro rfl; rfl
  case failLow | corrLow | unrecLow => rintro rfl; exact maskByte_low_toNat _
  case failHigh | corrHigh | unrecHigh => rintro rfl; exact maskByte_high_toNat _
  case pcode =>
    rw [regAt_pcode _ (j := ⟨2 * c + r, by omega⟩) (hat.trans (Nat.add_assoc _ _ _))]
    exact packByte_entry s.pcode hr rfl
  case lastdiff =>
    rw [regAt_lastdiff _ (j := ⟨2 * c + r, by omega⟩) (hat.trans (Nat.add_assoc _ _ _))]
    exact packByte_entry s.lastdiff hr rfl
  case reserved =>
    by_cases hlow : a.toNat < 0x020
    · rw [regAt_control _ (by omega) hlow, controlReg_reserved (by omega)]
    · exact regAt_reserved _ (by omega)

/-! ## Accesses while BUSY -/

/-- Settles O44: STATUS is the one register a read in RUN shows, and a write sets CMDERR alone. -/
theorem busyAccess : Obligations.BusyAccess := by
  unfold Obligations.BusyAccess
  intro s a v rest hl hrun
  refine ⟨?_, fun ha _ => ?_, step_write_run hl hrun⟩
  · rintro ha rfl
    exact step_read_status_run hl hrun ha
  · obtain ⟨b, k, e⟩ := hostRead_frame a { s with agenda := rest }
    exact ⟨b, k, (step_read hl ha).trans (congrArg _ e)⟩

end Machine
end Sys2Proof
end

section
/-! The command word (30_encoding.md R80 to R88): its two fields, the decoder by those fields, the words
it refuses, and an accepted word's first step. -/
namespace Sys2Proof

/-! ## The two fields of a word -/

@[simp] theorem opField_append (o a : BitVec 4) : opField (o ++ a) = o := by
  simp only [opField, BitVec.extractLsb'_append_eq_left]

@[simp] theorem argField_append (o a : BitVec 4) : argField (o ++ a) = a := by
  simp only [argField, BitVec.extractLsb'_append_eq_right]

theorem opField_append_argField (w : Byte) : opField w ++ argField w = w := by
  revert w; decide

theorem opField_toNat (w : Byte) : (opField w).toNat = w.toNat / 16 := by
  have := w.isLt
  simp only [opField, BitVec.extractLsb'_toNat, Nat.shiftRight_eq_div_pow]
  omega

theorem argField_toNat (w : Byte) : (argField w).toNat = w.toNat % 16 := by
  simp [argField]

/-! ## Decoding -/

/-- What the decoder accepts among the operations without an operand is a command of every variant, and
its word is the operation code with a zero `arg` (R82). -/
theorem decodeOp_eq_instr {n : Nat} {i : Instr} (h : decodeOp n = .instr i) (v : Variant) :
    i.wellFormed v = true ∧ encode i = BitVec.ofNat 4 n ++ 0#4 := by
  unfold decodeOp at h
  split at h <;> cases h <;> exact ⟨rfl, rfl⟩

theorem decodeOp_illegal_iff (n : Nat) :
    (∃ why, decodeOp n = .illegal why) ↔ n = 0x5 ∨ 0xC ≤ n := by
  unfold decodeOp
  split
  all_goals simp
  grind

theorem decode_encode {v : Variant} {i : Instr} (h : i.wellFormed v = true) :
    decode v (encode i) = .instr i := by
  cases i with
  | gark k =>
    have hk : k.toNat ≤ v.nr := by simpa [Instr.wellFormed] using h
    simp [decode, encode, hk]
  | _ => rfl

theorem encode_of_decode {v : Variant} {w : Byte} {i : Instr} (h : decode v w = .instr i) :
    i.wellFormed v = true ∧ encode i = w := by
  unfold decode at h
  split at h
  · next hop =>
    split at h <;> cases h
    next hk =>
    refine ⟨by simpa [Instr.wellFormed] using hk, ?_⟩
    rw [encode, ← hop, opField_append_argField]
  · split at h
    · cases h
    · next harg =>
      obtain ⟨hwf, hword⟩ := decodeOp_eq_instr h v
      refine ⟨hwf, ?_⟩
      rw [hword, BitVec.ofNat_toNat, BitVec.setWidth_eq, ← not_not.1 harg, opField_append_argField]

/-- Settles O2: the decoder undoes the encoder, and accepts nothing else. -/
theorem decodeIffEncode : Obligations.DecodeIffEncode := by
  unfold Obligations.DecodeIffEncode
  intro v w i
  refine ⟨encode_of_decode, ?_⟩
  rintro ⟨hwf, rfl⟩
  exact decode_encode hwf

/-- Settles O1, word by word. -/
theorem decodeWrittenWords : Obligations.DecodeWrittenWords := by
  unfold Obligations.DecodeWrittenWords
  intro v
  cases v <;> decide

/-- The decoder refuses by the two fields (R86). -/
theorem decode_illegal_iff (v : Variant) (w : Byte) :
    (∃ why, decode v w = .illegal why) ↔
      0xC ≤ (opField w).toNat ∨ ((opField w).toNat ≠ 0x5 ∧ (argField w).toNat ≠ 0) ∨
        ((opField w).toNat = 0x5 ∧ v.nr < (argField w).toNat) := by
  unfold decode
  split
  · next hop =>
    rw [hop]
    split <;> simp <;> omega
  · next hop =>
    have hop : (opField w).toNat ≠ 0x5 := fun h => hop (BitVec.eq_of_toNat_eq h)
    split
    · next harg =>
      have harg : (argField w).toNat ≠ 0 := fun h => harg (BitVec.eq_of_toNat_eq h)
      simp [hop, harg]
    · next harg => simp [decodeOp_illegal_iff, hop, not_not.1 harg]

theorem legalWords_length (v : Variant) :
    ((List.range 256).filter fun n => (decode v (BitVec.ofNat 8 n)).instr?.isSome).length =
      11 + (v.nr + 1) := by
  cases v <;> rfl

/-- Settles O3: the refusals by field, and the legal words counted on each variant. -/
theorem illegalWords : Obligations.IllegalWords := by
  unfold Obligations.IllegalWords
  intro v
  refine ⟨fun w => ?_, legalWords_length v⟩
  rw [← opField_toNat, ← argField_toNat]
  exact decode_illegal_iff v w

namespace Machine

/-! ## A word at CMD -/

theorem regAt_cmd (v : Variant) : regAt v 0x010 = .cmd := rfl

/-- R88: an illegal word written to CMD in IDLE sets CMDERR alone. -/
theorem issueCommand_of_illegal {w : Byte} {s : State} {why : Illegal}
    (h : decode s.variant w = .illegal why) : issueCommand w s = setCmderr s := by
  rw [issueCommand, h]

/-- Settles O42, mode by mode. -/
theorem commandWrite : Obligations.CommandWrite := by
  unfold Obligations.CommandWrite
  intro s w rest hl ha
  refine ⟨fun hidle => ?_, fun hrun => step_write_run hl hrun ha,
    fun hfault => step_write_fault hl hfault ha⟩
  rw [step_write_idle hl hidle ha, regAt_cmd]
  exact ⟨fun i hd => congrArg _ (issueCommand_of_legal hd),
    fun why hd => congrArg _ (issueCommand_of_illegal hd)⟩

/-- R175: with the accepted word's command known, a CORE step is one step of that command. -/
theorem coreStep_of_run {i : Instr} {u : Seu} {s : State} (hrun : s.mode = .run)
    (hd : decode s.variant s.top = .instr i) : coreStep u s = exec i { s with seu := u } := by
  simp only [coreStep, hrun, hd]

/-- A CORE move at the head of the agenda. -/
theorem step_core {u : Seu} {s : State} {rest : List Move} (hl : s.rstLow = false)
    (ha : s.agenda = .core u :: rest) : step s = coreStep u { s with agenda := rest } := by
  rw [step_of_rstHigh hl, stepRunning, ha]

theorem ofNat_toNat_mod (w : Byte) : BitVec.ofNat 8 (w.toNat % 2 ^ 8) = w := by
  rw [Nat.mod_eq_of_lt w.isLt, BitVec.ofNat_toNat, BitVec.setWidth_eq]

/-- Settles O49: the placed word decodes to its command. -/
theorem fetchedWordRuns : Obligations.FetchedWordRuns := by
  unfold Obligations.FetchedWordRuns
  intro s i hwf
  rw [State.withFetchWord, ofNat_toNat_mod, step_core rfl rfl]
  exact coreStep_of_run rfl (decode_encode hwf)

end Machine
end Sys2Proof
end

section
/-! What moves the mode over one step (10_state.md R23, 30_encoding.md R81, 45_driver.md R175,
60_exceptions.md R201, R204, R207). -/
namespace Sys2Proof.Machine

/-- A host write moves the mode only as an accepted command (30_encoding.md R81). -/
theorem hostWrite_mode (a : BitVec 10) (v : Byte) (s : State) :
    (hostWrite a v s).mode = s.mode ∨
    ((hostWrite a v s).mode = .run ∧ s.mode = .idle ∧ a = 0x010 ∧
      ∃ i, decode s.variant v = .instr i) := by
  rcases hostWrite_cases a v s with
    e | ⟨-, n, -, e⟩ | ⟨-, b, -, -, e⟩ | ⟨hidle, ha, i, hd, e⟩ | ⟨-, e⟩ <;> rw [e]
  case inr.inr.inr.inl => exact .inr ⟨rfl, hidle, ha, i, hd⟩
  all_goals exact .inl rfl

/-- Under either RECHECK a byte that fails had its syndrome recorded (43_verify_correct.md R149). -/
theorem failMask_and_recorded (op : Byte) (s : State) :
    failMask s &&& ((eventState op s).lastcorr ||| (eventState op s).unrecmask) = failMask s := by
  refine mask_ext fun n => ?_
  rw [BitVec.getLsbD_and, eventState_masks_cover]
  by_cases hquiet : (syndromes s.S s.pcode).get n = 0
  · rw [failMask_of_quiet s n hquiet, Bool.false_and]
  · have hdiff : ((eventState op s).lastdiff.get n != 0) = true := bne_iff_ne.2 hquiet
    rw [hdiff, Bool.and_true]

/-- Where every failing byte is recorded, some cause bit is set (60_exceptions.md R201). -/
theorem fcauseOf_cases {fail corr unrec : BitVec 16} (hrecorded : fail &&& (corr ||| unrec) = fail)
    (hfail : fail ≠ 0) :
    fcauseOf fail corr unrec = 0x01 ∨ fcauseOf fail corr unrec = 0x02 ∨
      fcauseOf fail corr unrec = 0x03 := by
  rw [BitVec.and_or_distrib_left] at hrecorded
  rw [fcauseOf_eq]
  by_cases hu : fail &&& unrec = 0 <;> by_cases hc : fail &&& corr = 0
  · rw [hu, hc] at hrecorded
    exact absurd hrecorded.symm hfail
  · exact .inl (by rw [if_pos hu, if_neg hc]; rfl)
  · exact .inr (.inl (by rw [if_neg hu, if_pos hc]; rfl))
  · exact .inr (.inr (by rw [if_neg hu, if_neg hc]; rfl))

/-- A sequencer that goes on does not go to FAULT. -/
theorem advance_ok_mode (len : Nat) (s : State) :
    (advance len (.ok s)).mode = .idle ∨ (advance len (.ok s)).mode = s.mode := by
  by_cases hl : s.idx.toNat + 1 = len
  · exact .inl (by rw [advance_ok_last hl, complete_mode])
  · exact .inr (by rw [advance_ok_inside hl])

/-- A micro-operation that ended without a Fault left the mode, and one that raised it left its cause. -/
theorem micro_fault_cause (m : MicroOp) (s : State) :
    (∃ t, micro m s = .ok t ∧ t.mode = s.mode) ∨
    (∃ t, micro m s = .raised t ∧ (t.fcause = 0x01 ∨ t.fcause = 0x02 ∨ t.fcause = 0x03)) := by
  rcases micro_cases m s with e | ⟨p, f, e | e | ⟨hfail, e⟩⟩
  · exact .inl ⟨_, e, by cases m <;> rfl⟩
  · exact .inl ⟨_, e, rfl⟩
  · exact .inl ⟨_, e, rfl⟩
  · exact .inr ⟨_, e, fcauseOf_cases (failMask_and_recorded _ _) hfail⟩

/-- A command's step enters FAULT only with a cause recorded. -/
theorem exec_fault_cause {i : Instr} {s t : State} (hs : s.mode ≠ .fault) (h : exec i s = .next t)
    (ht : t.mode = .fault) : t.fcause = 0x01 ∨ t.fcause = 0x02 ∨ t.fcause = 0x03 := by
  obtain ⟨m, -, rfl⟩ := exec_next_inv h
  rcases micro_fault_cause m s with ⟨u, e, hu⟩ | ⟨u, e, hu⟩ <;> rw [e] at ht ⊢
  · rcases advance_ok_mode (microList s.variant i).length u with hidle | hsame
    · cases hidle.symm.trans ht
    · exact absurd (hu ▸ hsame ▸ ht) hs
  · exact hu

/-- A command's step reaches IDLE from RUN only as a completion (45_driver.md R175). -/
theorem exec_idle_done {i : Instr} {s t : State} (hrun : s.mode = .run) (h : exec i s = .next t)
    (ht : t.mode = .idle) : t.done = true := by
  rcases exec_sequencer h with ⟨hm, -⟩ | ⟨-, -, -, hdone⟩ | ⟨-, hm, -⟩
  · cases hm.symm.trans ht
  · exact hdone
  · cases hrun.symm.trans (hm.symm.trans ht)

/-- From IDLE only an accepted command leads away (30_encoding.md R81). -/
theorem step_leaves_idle {s t : State} (h : step s = .next t) (hidle : s.mode = .idle)
    (ht : t.mode ≠ .idle) :
    t.mode = .run ∧ s.rstLow = false ∧
      ∃ w rest i, s.agenda = .write 0x010 w :: rest ∧ decode s.variant w = .instr i := by
  rcases step_effect h with
    ⟨-, b, l, rfl⟩ | ⟨hl, rest, ⟨b, k, rfl⟩ | ⟨hrun, -⟩ | ⟨a, v, ha, rfl⟩⟩
  · exact absurd rfl ht
  · exact absurd hidle ht
  · cases hidle.symm.trans hrun
  · rcases hostWrite_mode a v { s with agenda := rest } with hsame | ⟨hrun, -, rfl, i, hd⟩
    · exact absurd (hsame.trans hidle) ht
    · exact ⟨hrun, hl, v, rest, i, ha, hd⟩

/-- From RUN a reset and a step of the command lead away, and no other step. -/
theorem step_leaves_run {s t : State} (h : step s = .next t) (hrun : s.mode = .run)
    (ht : t.mode ≠ .run) :
    (Resets s ∧ t.mode = .idle) ∨
      ∃ i s', s'.mode = .run ∧ exec i s' = .next t := by
  rcases step_effect h with
    ⟨hreset, b, l, rfl⟩ | ⟨-, rest, ⟨b, k, rfl⟩ | ⟨-, i, u, -, he⟩ | ⟨a, v, -, rfl⟩⟩
  · exact .inl ⟨hreset, rfl⟩
  · exact absurd hrun ht
  · exact .inr ⟨i, { s with agenda := rest, seu := u }, hrun, he⟩
  · rcases hostWrite_mode a v { s with agenda := rest } with hsame | ⟨hnow, -⟩
    · exact absurd (hsame.trans hrun) ht
    · exact absurd hnow ht

/-- From FAULT only a reset leads away (60_exceptions.md R207). -/
theorem step_leaves_fault {s t : State} (h : step s = .next t) (hfault : s.mode = .fault)
    (ht : t.mode ≠ .fault) : Resets s := by
  rcases step_effect h with
    ⟨hreset, -⟩ | ⟨-, rest, ⟨b, k, rfl⟩ | ⟨hrun, -⟩ | ⟨a, v, -, rfl⟩⟩
  · exact hreset
  · exact absurd hfault ht
  · cases hfault.symm.trans hrun
  · rcases hostWrite_mode a v { s with agenda := rest } with hsame | ⟨-, hidle, -⟩
    · exact absurd (hsame.trans hfault) ht
    · cases hfault.symm.trans hidle

/-- Settles O55, by the mode the step leaves. -/
theorem modeTransitions : Obligations.ModeTransitions := by
  unfold Obligations.ModeTransitions
  intro s t h
  refine ⟨step_leaves_idle h, fun hrun ht => ?_, fun hrun ht => ?_, step_leaves_fault h⟩
  · rcases step_leaves_run h hrun (by simp [ht]) with ⟨hreset, -⟩ | ⟨i, s', hs', he⟩
    · exact .inr hreset
    · exact .inl (exec_idle_done hs' he ht)
  · rcases step_leaves_run h hrun (by simp [ht]) with ⟨-, hidle⟩ | ⟨i, s', hs', he⟩
    · cases hidle.symm.trans ht
    · exact exec_fault_cause (by simp [hs']) he ht

end Sys2Proof.Machine
end

section
/-! The micro-operations of ENC and of DEC without an upset: their effect on State and PCODE, and the same
effect when the host issues them one by one (30_encoding.md R91, 45_driver.md R172, R173). -/
namespace Sys2Proof.Machine

/-! ## The pseudo-instructions (30_encoding.md R91) -/

theorem pseudoRoundsFrom_succ (k n : Nat) :
    pseudoRoundsFrom k (n + 1) = pseudoRoundsFrom k n ++ pseudoRound (k + n) := by
  induction n generalizing k with
  | zero => simp [pseudoRoundsFrom]
  | succ n ih =>
    rw [pseudoRoundsFrom, ih, pseudoRoundsFrom, List.append_assoc, Nat.add_right_comm]
    rfl

theorem pseudoRoundsFrom_one (n : Nat) : pseudoRoundsFrom 1 n = (encRounds n).map MicroOp.instr := by
  induction n with
  | zero => rfl
  | succ n ih =>
    rw [pseudoRoundsFrom_succ, ih, encRounds, List.map_append, Nat.add_comm 1 n]
    rfl

theorem pseudoDroundsDown_eq (n : Nat) :
    pseudoDroundsDown n = (decRounds n).map MicroOp.instr := by
  induction n with
  | zero => rfl
  | succ n ih =>
    rw [pseudoDroundsDown, ih, decRounds, List.map_append]
    rfl

/-- Settles O29: the rounds agree, by induction on their number, and so do the fixed ends. -/
theorem pseudoInstructionsExpand : Obligations.PseudoInstructionsExpand := by
  unfold Obligations.PseudoInstructionsExpand
  intro v
  rw [pseudoEncrypt, pseudoDecrypt, encProg, decProg, pseudoRoundsFrom_one, pseudoDroundsDown_eq]
  simp only [List.map_append]
  exact ⟨rfl, rfl⟩

/-! ## A micro-operation without an upset -/

theorem synced_iff (s : State) : Synced s ↔ s.pcode = codes s.S :=
  ⟨fun h => Lanes.ext_get fun n => by rw [h n, get_codes], fun h n => by rw [h, get_codes]⟩

/-- The code of an XOR of States, lane by lane (40_codec.md R101). -/
theorem codes_xor (X Y : Lanes Byte) : codes (X.xor Y) = (codes X).xor (codes Y) :=
  Lanes.ext_get fun n => by simp [codeOf_xor]

/-- Where it needs no PCODE or PCODE describes State, a predictor gives the codes of the transformed State
(42_prediction.md R136). -/
theorem predictedCode_eq {m : MicroOp} {s : State} {f : Lanes Byte → Lanes Byte}
    (hf : guardedTransform s.rk m.instr = some f) (hsync : readsPcode m.instr = true → Synced s) :
    predictedCode s m = codes (f s.S) := by
  cases m with
  | gshr =>
    cases hf
    rw [predictedCode, (synced_iff s).1 (hsync rfl)]
    rfl
  | gark k =>
    cases hf
    rw [predictedCode, (synced_iff s).1 (hsync rfl), addRoundKey, codes_xor]
  | gsub | gmix => cases hf; rfl
  | _ => cases hf

/-- What a guarded micro-operation does to State and PCODE by its rule (44_guarded_ops.md R166). -/
theorem faultFree_of_guarded {m : MicroOp} {s : State} {f : Lanes Byte → Lanes Byte}
    (hf : guardedTransform s.rk m.instr = some f) :
    faultFree s m = { s with S := f s.S, pcode := codes (f s.S) } := by
  cases m <;> cases hf <;> rfl

/-- Without an upset the phases of a guarded step leave the transformed State and its prediction. -/
theorem guardedPhases_none (p : Lanes Byte → Lanes Nibble → Lanes Nibble) (f : Lanes Byte → Lanes Byte)
    {s : State} (h : s.seu = .none) :
    guardedPhases p f s = { s with S := f s.S, pcode := p s.S s.pcode } := by
  simp [guardedPhases, h, Seu.none]

/-- A micro-operation without an upset has the effect of its rule: a guarded one finds no syndrome, and an
unguarded one compares nothing (44_guarded_ops.md R166). -/
theorem micro_faultFree {m : MicroOp} {s : State} (hseu : s.seu = .none)
    (hsync : readsPcode m.instr = true → Synced s) : micro m s = .ok (faultFree s m) := by
  cases hf : guardedTransform s.rk m.instr with
  | none => exact micro_unguarded hf
  | some f =>
    obtain ⟨p, hp, e⟩ := micro_guarded hf
    rw [e, guardedStep, guardedPhases_none p f hseu, hp, predictedCode_eq hf hsync,
      faultFree_of_guarded hf]
    refine verifyCorrect_quiet _ _ fun n => ?_
    simp only [syndromes_codes, Lanes.get_fill]

/-! ## A list of micro-operations without an upset -/

/-- From `s` the micro-operations of a list, each with the effect of its rule, lead to `t`; where one reads
PCODE, PCODE describes State. -/
inductive FaultFreeRun : List MicroOp → State → State → Prop
  | nil (s : State) : FaultFreeRun [] s s
  | cons {m : MicroOp} {L : List MicroOp} {s t : State} (sync : readsPcode m.instr = true → Synced s)
      (rest : FaultFreeRun L (faultFree s m) t) : FaultFreeRun (m :: L) s t

theorem FaultFreeRun.append {L M : List MicroOp} {s t u : State} (h : FaultFreeRun L s t)
    (h' : FaultFreeRun M t u) : FaultFreeRun (L ++ M) s u := by
  induction h with
  | nil => exact h'
  | cons sync _ ih => exact .cons sync (ih h')

/-- The state with other data. -/
def withData (s : State) (X : Lanes Byte) (P : Lanes Nibble) : State := { s with S := X, pcode := P }

theorem synced_withData (s : State) (X : Lanes Byte) : Synced (withData s X (codes X)) :=
  (synced_iff _).2 rfl

/-- GARK of a list takes the round key of its number (45_driver.md R172). -/
theorem faultFree_gark {k : Nat} (hk : k < 16) (s : State) :
    faultFree s (gark k) =
      withData s (addRoundKey s.rk k s.S) (codes (addRoundKey s.rk k s.S)) := by
  have hnum : (BitVec.ofNat 4 k).toNat = k := Nat.mod_eq_of_lt hk
  rw [gark, faultFree, hnum]
  rfl

/-- SEED and then GARK, whatever PCODE was. -/
theorem faultFreeRun_seed_gark {k : Nat} (hk : k < 16) (s : State) :
    FaultFreeRun [.seed, gark k] s
      (withData s (addRoundKey s.rk k s.S) (codes (addRoundKey s.rk k s.S))) := by
  refine .cons nofun (.cons (fun _ => synced_withData s s.S) ?_)
  rw [faultFree_gark hk]
  exact .nil _

/-- One round of an encryption keeps PCODE describing State. -/
theorem faultFreeRun_encRound {k : Nat} (hk : k < 16) (s : State) (X : Lanes Byte) :
    FaultFreeRun (encRound k) (withData s X (codes X))
      (withData s (addRoundKey s.rk k (mixColumns (shiftRows (subBytes X))))
        (codes (addRoundKey s.rk k (mixColumns (shiftRows (subBytes X)))))) := by
  refine .cons nofun (.cons (fun _ => synced_withData s _) (.cons nofun
    (.cons (fun _ => synced_withData s _) ?_)))
  rw [faultFree_gark hk]
  exact .nil _

/-- The rounds of an encryption (45_driver.md R172). -/
theorem faultFreeRun_encRounds {n : Nat} (hn : n < 16) (s : State) (X : Lanes Byte) :
    FaultFreeRun (encRounds n) (withData s X (codes X))
      (withData s (cipherRounds s.rk n X) (codes (cipherRounds s.rk n X))) := by
  induction n with
  | zero => exact .nil _
  | succ n ih => exact (ih (by omega)).append (faultFreeRun_encRound hn s _)

theorem nr_lt (v : Variant) : v.nr < 16 := by cases v <;> decide

/-- ENC without an upset encrypts State, and PCODE describes it (45_driver.md R170). -/
theorem faultFreeRun_encProg (s : State) :
    FaultFreeRun (encProg s.variant) s
      (withData s (cipher s.variant s.rk s.S) (codes (cipher s.variant s.rk s.S))) := by
  have hnr := nr_lt s.variant
  refine ((faultFreeRun_seed_gark (by decide) s).append
    (faultFreeRun_encRounds (by omega) s _)).append ?_
  refine .cons nofun (.cons (fun _ => synced_withData s _) (.cons (fun _ => synced_withData s _) ?_))
  rw [faultFree_gark hnr]
  exact .nil _

/-- One round of a decryption, whatever PCODE was: its SEED makes PCODE describe State again, and its IMIX
leaves the code of the State before it. -/
theorem faultFreeRun_decRound {k : Nat} (hk : k < 16) (s : State) (X : Lanes Byte)
    (P : Lanes Nibble) :
    FaultFreeRun (decRound k) (withData s X P)
      (withData s (invMixColumns (addRoundKey s.rk k (invSubBytes (invShiftRows X))))
        (codes (addRoundKey s.rk k (invSubBytes (invShiftRows X))))) :=
  .cons nofun (.cons nofun ((faultFreeRun_seed_gark hk _).append (.cons nofun (.nil _))))

/-- The rounds of a decryption, whatever PCODE was (45_driver.md R173). -/
theorem faultFreeRun_decRounds {n : Nat} (hn : n < 16) (s : State) (X : Lanes Byte) (P : Lanes Nibble) :
    ∃ P', FaultFreeRun (decRounds n) (withData s X P) (withData s (invCipherRounds s.rk n X) P') := by
  induction n generalizing X P with
  | zero => exact ⟨P, .nil _⟩
  | succ n ih =>
    obtain ⟨P', hrest⟩ := ih (by omega) _ _
    exact ⟨P', (faultFreeRun_decRound hn s X P).append hrest⟩

/-- DEC without an upset decrypts State, and PCODE describes it (45_driver.md R171). -/
theorem faultFreeRun_decProg (s : State) :
    FaultFreeRun (decProg s.variant) s
      (withData s (invCipher s.variant s.rk s.S) (codes (invCipher s.variant s.rk s.S))) := by
  have hnr := nr_lt s.variant
  obtain ⟨P, hrounds⟩ := faultFreeRun_decRounds (n := s.variant.nr - 1) (by omega) s
    (addRoundKey s.rk s.variant.nr s.S) (codes (addRoundKey s.rk s.variant.nr s.S))
  refine ((faultFreeRun_seed_gark hnr s).append hrounds).append ?_
  exact .cons nofun (.cons nofun (faultFreeRun_seed_gark (by decide) _))

/-! ## The host's issue of a list, one micro-operation at a time -/

/-- Two states whose data registers and variant agree. -/
structure SameData (s c : State) : Prop where
  variant : c.variant = s.variant
  rk : c.rk = s.rk
  S : c.S = s.S
  pcode : c.pcode = s.pcode

/-- The effect of a rule on the data depends on the data alone. -/
theorem SameData.faultFree {s c : State} (h : SameData s c) (m : MicroOp) :
    SameData (faultFree s m) (faultFree c m) := by
  obtain ⟨hv, hrk, hS, hP⟩ := h
  cases m <;> constructor <;> simp [Machine.faultFree, hv, hrk, hS, hP]

theorem SameData.synced {s c : State} (h : SameData s c) (hs : Synced s) : Synced c := fun n => by
  rw [h.pcode, h.S, hs n]

/-- What no rule of a micro-operation changes. -/
theorem faultFree_frame (m : MicroOp) (s : State) :
    (faultFree s m).variant = s.variant ∧ (faultFree s m).rstLow = s.rstLow ∧
      (faultFree s m).idx = s.idx ∧ (faultFree s m).agenda = s.agenda := by
  cases m <;> exact ⟨rfl, rfl, rfl, rfl⟩

/-- The command a micro-operation is issued by runs it alone. -/
theorem microList_instr (v : Variant) (m : MicroOp) : microList v m.instr = [m] := by
  cases m <;> rfl

/-- A command line of a micro-operation is its write to CMD and one CORE step. -/
theorem issueWait_instr (v : Variant) (m : MicroOp) :
    issueWait v m.instr = [issue m.instr, .core .none] := by
  rw [issueWait, microList_instr]
  rfl

/-- The host's write of a well-formed command's word in IDLE is accepted (30_encoding.md R81). -/
theorem step_issue {i : Instr} {s : State} {rest : List Move} (hl : s.rstLow = false)
    (hidle : s.mode = .idle) (hwf : i.wellFormed s.variant = true) (ha : s.agenda = issue i :: rest) :
    step s = .next (acceptCommand (encode i) { s with agenda := rest }) := by
  rw [step_write_idle hl hidle ha]
  exact congrArg _ (issueCommand_of_legal (s := { s with agenda := rest }) (decode_encode hwf))

/-- A micro-operation issued alone completes in one sequencer step without an upset (45_driver.md R175). -/
theorem exec_instr_faultFree {m : MicroOp} {s : State} (hidx : s.idx = 0) (hseu : s.seu = .none)
    (hsync : readsPcode m.instr = true → Synced s) :
    exec m.instr s = .next (complete (faultFree s m)) := by
  have hentry : (microList s.variant m.instr)[s.idx.toNat]? = some m := by
    rw [microList_instr, hidx]; rfl
  obtain ⟨-, -, hkept, -⟩ := faultFree_frame m s
  rw [exec_of_entry hentry, micro_faultFree hseu hsync, microList_instr]
  exact congrArg _ (advance_ok_last (by rw [hkept, hidx]; rfl))

/-- The CORE step that completes an accepted micro-operation. -/
theorem step_accepted {m : MicroOp} {s : State} {rest : List Move} (hl : s.rstLow = false)
    (hrun : s.mode = .run) (hd : decode s.variant s.top = .instr m.instr) (hidx : s.idx = 0)
    (hsync : readsPcode m.instr = true → Synced s) (ha : s.agenda = .core .none :: rest) :
    step s = .next (complete (faultFree { s with agenda := rest, seu := .none } m)) := by
  rw [step_core hl ha, coreStep_of_run (s := { s with agenda := rest }) hrun hd]
  exact exec_instr_faultFree hidx rfl hsync

/-- The state after the host has issued a micro-operation alone and waited. -/
def afterIssue (m : MicroOp) (rest : List Move) (s : State) : State :=
  complete (faultFree { acceptCommand (encode m.instr) s with agenda := rest, seu := .none } m)

theorem afterIssue_frame (m : MicroOp) (rest : List Move) (s : State) :
    (afterIssue m rest s).variant = s.variant ∧ (afterIssue m rest s).rstLow = s.rstLow ∧
      (afterIssue m rest s).agenda = rest := by
  obtain ⟨hv, hl, -, ha⟩ :=
    faultFree_frame m { acceptCommand (encode m.instr) s with agenda := rest, seu := .none }
  exact ⟨hv, hl, ha⟩

/-- Issuing a micro-operation has the effect of its rule on the data. -/
theorem SameData.afterIssue {s c : State} (h : SameData s c) (m : MicroOp) (rest : List Move) :
    SameData (Machine.faultFree s m) (afterIssue m rest c) := by
  obtain ⟨hv, hrk, hS, hP⟩ := h
  have hinner : SameData s { acceptCommand (encode m.instr) c with agenda := rest, seu := .none } :=
    ⟨hv, hrk, hS, hP⟩
  exact { hinner.faultFree m with }

/-- A micro-operation issued alone, without an upset: accepted in one step and done in the next. -/
theorem run_issueWait {m : MicroOp} {s : State} {rest : List Move} (hl : s.rstLow = false)
    (hidle : s.mode = .idle) (hwf : m.instr.wellFormed s.variant = true)
    (hsync : readsPcode m.instr = true → Synced s)
    (ha : s.agenda = issueWait s.variant m.instr ++ rest) :
    Host.Core.run core (issueWait s.variant m.instr).length s = .next (afterIssue m rest s) := by
  rw [issueWait_instr] at ha ⊢
  refine (run_succ 1 (step_issue hl hidle hwf ha)).trans (run_succ 0 ?_)
  exact step_accepted hl rfl (decode_encode hwf) rfl hsync rfl

/-- A list issued one by one, without an upset: IDLE with DONE, and the data as its rules leave them. -/
theorem run_issued {L : List MicroOp} {s t : State} (h : FaultFreeRun L s t) {c : State}
    {rest : List Move} (hdata : SameData s c) (hl : c.rstLow = false) (hidle : c.mode = .idle)
    (hwf : ∀ m ∈ L, m.instr.wellFormed c.variant = true)
    (ha : c.agenda = (L.map MicroOp.instr).flatMap (issueWait c.variant) ++ rest) :
    ∃ d, Host.Core.run core ((L.map MicroOp.instr).flatMap (issueWait c.variant)).length c = .next d ∧
      SameData t d ∧ d.mode = .idle ∧ (c.done = true ∨ L ≠ [] → d.done = true) := by
  induction h generalizing c with
  | nil s => exact ⟨c, rfl, hdata, hidle, by simp⟩
  | @cons m L s t sync _ ih =>
    obtain ⟨hwfm, hwfL⟩ := List.forall_mem_cons.1 hwf
    rw [List.map_cons, List.flatMap_cons] at ha ⊢
    rw [List.append_assoc] at ha
    have hfirst := run_issueWait hl hidle hwfm (fun hr => hdata.synced (sync hr)) ha
    obtain ⟨hv, hlow, hagenda⟩ :=
      afterIssue_frame m ((L.map MicroOp.instr).flatMap (issueWait c.variant) ++ rest) c
    obtain ⟨d, hrun, hd, hmode, hdone⟩ := ih (hdata.afterIssue m _) (hlow.trans hl) rfl
      (by rwa [hv]) (by rw [hv]; exact hagenda)
    rw [hv] at hrun
    refine ⟨d, ?_, hd, hmode, fun _ => hdone (.inl rfl)⟩
    rw [List.length_append, run_add _ _ hfirst]
    exact hrun

/-- Every entry of the two programs is a command of the variant (30_encoding.md R84). -/
theorem encProg_wellFormed (v : Variant) : ∀ m ∈ encProg v, m.instr.wellFormed v = true := by
  cases v <;> decide

theorem decProg_wellFormed (v : Variant) : ∀ m ∈ decProg v, m.instr.wellFormed v = true := by
  cases v <;> decide

/-- A program issued one by one with nothing else to come. -/
theorem run_issued_program {L : List MicroOp} {s : State} {X : Lanes Byte} (hL : L ≠ [])
    (h : FaultFreeRun L s (withData s X (codes X))) (hl : s.rstLow = false) (hidle : s.mode = .idle)
    (hwf : ∀ m ∈ L, m.instr.wellFormed s.variant = true)
    (ha : s.agenda = (L.map MicroOp.instr).flatMap (issueWait s.variant)) :
    ∃ t : State, Host.Core.run core s.agenda.length s = .next t ∧ t.mode = .idle ∧ t.done = true ∧
      t.S = X ∧ t.pcode = codes X := by
  obtain ⟨t, hrun, hdata, hmode, hdone⟩ :=
    run_issued h ⟨rfl, rfl, rfl, rfl⟩ hl hidle hwf (rest := []) (by rw [ha, List.append_nil])
  exact ⟨t, ha ▸ hrun, hmode, hdone (.inr hL), hdata.S, hdata.pcode⟩

/-- Settles O40: the pseudo-instructions are the two programs, and those compute the two ciphers. -/
theorem microCommandsComputeCipher : Obligations.MicroCommandsComputeCipher := by
  unfold Obligations.MicroCommandsComputeCipher
  intro s hl hidle
  obtain ⟨henc, hdec⟩ := pseudoInstructionsExpand s.variant
  rw [henc, hdec]
  exact ⟨run_issued_program (by simp [encProg]) (faultFreeRun_encProg s) hl hidle (encProg_wellFormed _),
    run_issued_program (by simp [decProg]) (faultFreeRun_decProg s) hl hidle (decProg_wellFormed _)⟩

end Sys2Proof.Machine
end

section
/-! The integrity code (40_codec.md R101), SEED (R102), and what the code makes of a flipped bit of
PredictedCode (43_verify_correct.md R144). -/
namespace Sys2Proof.Machine

/-- Settles O4: each bit of the code is a parity of the byte; the rest is finite, byte by byte. -/
theorem codeIsLinear : Obligations.CodeIsLinear := by
  unfold Obligations.CodeIsLinear
  have hkernel : ∀ x : Byte, codeOf x = 0 ↔
      x ∈ [0x00, 0x13, 0x25, 0x36, 0x49, 0x5A, 0x6C, 0x7F, 0x8C, 0x9F, 0xA9, 0xBA, 0xC5, 0xD6, 0xE0,
        0xF3#8] := by decide
  have hclasses : ∀ c : Nibble,
      ((List.range 256).filter fun x => codeOf (BitVec.ofNat 8 x) = c).length = 16 := by decide
  exact ⟨codeOf_xor, rfl, rfl, hkernel, hclasses⟩

/-! ## SEED -/

/-- An unguarded micro-operation issued alone completes with the effect of its rule, whatever the masks
(45_driver.md R175). -/
theorem exec_instr_unguarded {m : MicroOp} {s : State} (hidx : s.idx = 0)
    (hf : guardedTransform s.rk m.instr = none) :
    exec m.instr s = .next (complete (faultFree s m)) := by
  have hentry : (microList s.variant m.instr)[s.idx.toNat]? = some m := by
    rw [microList_instr, hidx]; rfl
  obtain ⟨-, -, hkept, -⟩ := faultFree_frame m s
  rw [exec_of_entry hentry, micro_unguarded hf, microList_instr]
  exact congrArg _ (advance_ok_last (by rw [hkept, hidx]; rfl))

/-- Settles O24: SEED is unguarded, and its rule leaves the codes of State in PCODE. -/
theorem seedResult : Obligations.SeedResult := by
  unfold Obligations.SeedResult
  intro s hidx
  exact ⟨complete (faultFree s .seed), exec_instr_unguarded (m := .seed) hidx rfl,
    (synced_iff _).2 rfl, rfl⟩

/-! ## A flipped bit of PredictedCode -/

/-- A mask applied to the codes of a State is what the comparison finds (43_verify_correct.md R141). -/
theorem syndromes_codes_xor (X : Lanes Byte) (c : Lanes Nibble) :
    syndromes X ((codes X).xor c) = c :=
  Lanes.ext_get fun n => by simp

/-- With no upset in State the phases of a guarded step leave the transformed State, and its codes with
the mask of point C (44_guarded_ops.md R160). -/
theorem micro_codeUpset {m : MicroOp} {f : Lanes Byte → Lanes Byte} {s : State} {c : Lanes Nibble}
    (hf : guardedTransform s.rk m.instr = some f) (hseu : s.seu = ⟨.fill 0, .fill 0, c⟩)
    (hsync : readsPcode m.instr = true → Synced s) :
    micro m s = verifyCorrect (encode m.instr)
      { s with S := f s.S, pcode := (codes (f s.S)).xor c } := by
  obtain ⟨p, hp, e⟩ := micro_guarded hf
  rw [e, guardedStep, guardedPhases, hp, predictedCode_eq hf hsync, hseu]
  simp only [Lanes.xor_fill_zero]

/-- The lanes that hold a nonzero syndrome, as a mask register. -/
def nonzeroMask (diff : Lanes Nibble) : BitVec 16 := maskOf (diff.map (· != 0))

theorem nonzeroMask_eq_zero_iff (diff : Lanes Nibble) :
    nonzeroMask diff = 0 ↔ ∀ n, diff.get n = 0 :=
  (maskOf_eq_zero_iff _).trans (forall_congr' fun n => by simp)

theorem nonzeroMask_single {d : Nibble} (hd : d ≠ 0) (p : Fin 16) :
    nonzeroMask ((Lanes.fill 0).set p d) = 1#16 <<< p.val := by
  have hbit : ∀ n : Fin 16, (1#16 <<< p.val).getLsbD n.val = decide (n = p) := by revert p; decide
  refine mask_ext fun n => ?_
  rw [nonzeroMask, getLsbD_maskOf, Lanes.get_map, Lanes.get_set, Lanes.get_fill, hbit]
  by_cases h : n = p
  · simpa [h] using hd
  · simp [h]

/-- Syndromes outside the table, under either RECHECK: no byte is flipped, and the step raises the Fault
for every byte with a nonzero one (43_verify_correct.md R144 to R149). -/
theorem verifyCorrect_unmatched (op : Byte) {s : State} {diff : Lanes Nibble}
    (hdiff : syndromes s.S s.pcode = diff) (hnone : ∀ n, synDec (diff.get n) = none)
    (hsome : ∃ n, diff.get n ≠ 0) :
    verifyCorrect op s = .raised (raiseFault (nonzeroMask diff) 0 (nonzeroMask diff)
      (recordEvent op diff 0 (nonzeroMask diff) s)) := by
  have hcorr : maskOf (matchedLanes diff) = 0 :=
    (maskOf_eq_zero_iff _).2 fun n => by simp [matchedLanes, hnone n]
  have hunrec : unmatchedLanes diff = diff.map (· != 0) :=
    Lanes.ext_get fun n => by simp [unmatchedLanes, hnone n]
  have hS : Lanes.zipWith correctByte s.S diff = s.S :=
    Lanes.ext_get fun n => by simp [correctByte, hnone n]
  have hevent : eventState op s = recordEvent op diff 0 (nonzeroMask diff) s := by
    rw [eventState, hdiff, hcorr, hunrec, hS, nonzeroMask]
  have hfail : failMask s = nonzeroMask diff := by
    rw [failMask, hdiff, hS]
    cases s.recheck with
    | refresh => rw [recheckSyndromes, hdiff, nonzeroMask]
    | stale => rfl
  have hne : nonzeroMask diff ≠ 0 := fun h =>
    hsome.elim fun n hn => hn ((nonzeroMask_eq_zero_iff diff).1 h n)
  rw [verifyCorrect_event op s (hdiff ▸ hsome), hfail, if_neg hne, hevent, recordEvent_lastcorr,
    recordEvent_unrecmask]

/-- No column of the code has weight 1 (40_codec.md R101 (b)), so a flipped bit of a code has a syndrome
outside the table. -/
theorem synDec_singleBit : ∀ j : Fin 4, synDec (1#4 <<< j.val) = none := by decide

theorem singleBit_ne_zero : ∀ j : Fin 4, 1#4 <<< j.val ≠ 0 := by decide

/-- A Fault for one unrecognised byte has the cause UNRECOGNIZED alone (60_exceptions.md R204). -/
theorem fcauseOf_single : ∀ p : Fin 16, fcauseOf (1#16 <<< p.val) 0 (1#16 <<< p.val) = 0x02 := by
  decide

/-- Settles O21: the mask of point C is the syndrome, it is outside the table, and the two re-checks see
the same, since nothing was corrected. -/
theorem singleCodeFlipFaults : Obligations.SingleCodeFlipFaults := by
  unfold Obligations.SingleCodeFlipFaults
  intro i m f s p j hentry hf hseu hsync
  have hnone : ∀ n, synDec (((Lanes.fill 0).set p (1#4 <<< j.val)).get n) = none := fun n => by
    rw [Lanes.get_set, Lanes.get_fill]
    split
    · exact synDec_singleBit j
    · rfl
  have hfault := verifyCorrect_unmatched (encode m.instr)
    (s := { s with S := f s.S, pcode := (codes (f s.S)).xor ((Lanes.fill 0).set p (1#4 <<< j.val)) })
    (syndromes_codes_xor _ _) hnone ⟨p, by rw [Lanes.get_set_same]; exact singleBit_ne_zero j⟩
  rw [nonzeroMask_single (singleBit_ne_zero j)] at hfault
  have hexec := exec_of_entry hentry
  rw [micro_codeUpset hf hseu hsync, hfault, advance_raised] at hexec
  exact ⟨_, hexec, rfl, rfl, rfl, rfl, fcauseOf_single p, rfl, rfl, rfl, rfl⟩

end Sys2Proof.Machine
end

section
/-! The arithmetic of GF(2^8), the tables and the round transforms (41_transforms.md): doubling is additive,
hence so are multiplication and MixColumns; the S-box by its formula; and every transform with its inverse. -/
namespace Sys2Proof

/-- A map of every column is undone by a map that undoes it on each column. -/
theorem Lanes.mapCol_mapCol_cancel {α : Type} {f g : Col α → Col α} (h : ∀ x, f (g x) = x)
    (m : Lanes α) : (m.mapCol g).mapCol f = m := by
  simp only [Lanes.mapCol, h]

/-- A map of every lane is undone by a map that undoes it on each entry. -/
theorem Lanes.map_map_cancel {α : Type} {f g : α → α} (h : ∀ x, f (g x) = x) (m : Lanes α) :
    (m.map g).map f = m :=
  Lanes.ext_get fun n => by rw [Lanes.get_map, Lanes.get_map, h]

/-- `Lanes.build` answers for each row and column. -/
theorem Lanes.entry_build {α : Type} (f : Nat → Nat → α) {c r : Nat} (hc : c < 4) (hr : r < 4) :
    (Lanes.build f).entry c r = f c r := by
  interval_cases c <;> interval_cases r <;> rfl

namespace Machine

/-! ## Multiplication (R115, R116) -/

/-- Of two equal terms side by side in a sum nothing is left. -/
theorem xor_self_xor {w : Nat} (x y : BitVec w) : x ^^^ (x ^^^ y) = y := by
  rw [← BitVec.xor_assoc, BitVec.xor_self, BitVec.zero_xor]

/-- The reduction of a doubling is additive: the polynomial is subtracted where one of two top bits is
set. -/
theorem reduction_xor (p q : Bool) (v : Byte) :
    (if p ^^ q then v else 0x00) = (if p then v else 0x00) ^^^ (if q then v else 0x00) := by
  cases p <;> cases q <;> simp

theorem xtime_xor (a c : Byte) : xtime (a ^^^ c) = xtime a ^^^ xtime c := by
  simp only [xtime, BitVec.getLsbD_xor, BitVec.shiftLeft_xor_distrib, reduction_xor]
  ac_rfl

/-- The loop is additive in its first factor and its accumulator together. -/
theorem gmulFrom_xor (n i : Nat) (a c b r q : Byte) :
    gmulFrom n i (a ^^^ c) b (r ^^^ q) = gmulFrom n i a b r ^^^ gmulFrom n i c b q := by
  induction n generalizing i a c r q with
  | zero => rfl
  | succ n ih =>
    have hacc : (if b.getLsbD i then r ^^^ q ^^^ (a ^^^ c) else r ^^^ q) =
        (if b.getLsbD i then r ^^^ a else r) ^^^ (if b.getLsbD i then q ^^^ c else q) := by
      split
      · ac_rfl
      · rfl
    rw [gmulFrom, hacc, xtime_xor, ih]
    rfl

theorem gmul_xor (a c b : Byte) : gmul (a ^^^ c) b = gmul a b ^^^ gmul c b :=
  gmulFrom_xor 8 0 a c b 0x00 0x00

theorem gmul_zero (a : Byte) : gmul a 0 = 0 := rfl

theorem gmul_one (a : Byte) : gmul a 1 = a := by simp [gmul, gmulFrom]

theorem gmul_two (a : Byte) : gmul a 2 = xtime a := by simp [gmul, gmulFrom]

theorem gmul_three (a : Byte) : gmul a 3 = xtime a ^^^ a := by
  simp [gmul, gmulFrom, BitVec.xor_comm]

theorem gmul_nine (a : Byte) : gmul a 0x09 = a ^^^ xtime (xtime (xtime a)) := by
  simp [gmul, gmulFrom]

theorem gmul_eleven (a : Byte) : gmul a 0x0B = a ^^^ xtime a ^^^ xtime (xtime (xtime a)) := by
  simp [gmul, gmulFrom]

theorem gmul_thirteen (a : Byte) :
    gmul a 0x0D = a ^^^ xtime (xtime a) ^^^ xtime (xtime (xtime a)) := by
  simp [gmul, gmulFrom]

theorem gmul_fourteen (a : Byte) :
    gmul a 0x0E = xtime a ^^^ xtime (xtime a) ^^^ xtime (xtime (xtime a)) := by
  simp [gmul, gmulFrom]

/-! ## MixColumns and its inverse (R117, R123) -/

theorem mixColumn_xor (a e : Col Byte) :
    mixColumn (.zipWith (· ^^^ ·) a e) = .zipWith (· ^^^ ·) (mixColumn a) (mixColumn e) := by
  simp only [mixColumn, Col.zipWith, gmul_xor, Col.mk.injEq]
  refine ⟨?_, ?_, ?_, ?_⟩ <;> ac_rfl

theorem mixColumns_xor (S E : Lanes Byte) :
    mixColumns (S.xor E) = (mixColumns S).xor (mixColumns E) := by
  simp only [mixColumns, Lanes.xor, Lanes.mapCol, Lanes.zipWith, mixColumn_xor]

/-- Settles O7: doubling is additive, the loop of a multiplication keeps that, and MixColumns is made of
multiplications and XORs. -/
theorem mixColumnsIsLinear : Obligations.MixColumnsIsLinear := by
  unfold Obligations.MixColumnsIsLinear
  exact ⟨fun a b c => gmul_xor a c b,
    fun a => ⟨gmul_one a, gmul_zero a, gmul_two a, gmul_three a⟩, mixColumns_xor⟩

/-- With both matrices written out in doublings, every row is a sum in which all terms but one stand
twice: no product of two of their coefficients needs a reduction. -/
theorem mixColumn_inverse (a : Col Byte) :
    invMixColumn (mixColumn a) = a ∧ mixColumn (invMixColumn a) = a := by
  obtain ⟨a0, a1, a2, a3⟩ := a
  simp only [invMixColumn, mixColumn, gmul_two, gmul_three, gmul_nine, gmul_eleven, gmul_thirteen,
    gmul_fourteen, xtime_xor, Col.mk.injEq]
  refine ⟨⟨?_, ?_, ?_, ?_⟩, ?_, ?_, ?_, ?_⟩
  all_goals
    rw [← BitVec.xor_eq_zero_iff]
    ac_nf
    simp only [xor_self_xor, BitVec.xor_self]

@[simp] theorem invMixColumns_mixColumns (S : Lanes Byte) : invMixColumns (mixColumns S) = S :=
  Lanes.mapCol_mapCol_cancel (fun a => (mixColumn_inverse a).1) S

@[simp] theorem mixColumns_invMixColumns (S : Lanes Byte) : mixColumns (invMixColumns S) = S :=
  Lanes.mapCol_mapCol_cancel (fun a => (mixColumn_inverse a).2) S

/-! ## The tables (R111, R121, R134) -/

@[simp] theorem invSbox_sbox : ∀ x : Byte, invSbox (sbox x) = x := by decide

@[simp] theorem sbox_invSbox : ∀ x : Byte, sbox (invSbox x) = x := by decide

/-- The byte that the affine map of the S-box (R111) takes to `y`. -/
def affinePreimage (y : Byte) : Byte :=
  (y ^^^ 0x63).rotateLeft 1 ^^^ (y ^^^ 0x63).rotateLeft 3 ^^^ (y ^^^ 0x63).rotateLeft 6

theorem affine_affinePreimage : ∀ y : Byte,
    y = affinePreimage y ^^^ (affinePreimage y).rotateLeft 1 ^^^ (affinePreimage y).rotateLeft 2 ^^^
      (affinePreimage y).rotateLeft 3 ^^^ (affinePreimage y).rotateLeft 4 ^^^ 0x63 := by decide

/-- Taken back through the affine map, the S-box is the inverse in GF(2^8), with 0 for 0. -/
theorem gmul_affinePreimage_sbox : ∀ x : Byte, x ≠ 0 → gmul x (affinePreimage (sbox x)) = 1 := by
  decide

theorem affinePreimage_sbox_zero : affinePreimage (sbox 0) = 0 := by decide

/-- Settles O6: the field inverse is the preimage of the S-box entry under the affine map. -/
theorem constantTables : Obligations.ConstantTables := by
  unfold Obligations.ConstantTables
  intro x
  refine ⟨⟨affinePreimage (sbox x), ?_, gmul_affinePreimage_sbox x, affine_affinePreimage (sbox x)⟩,
    invSbox_sbox x, sbox_invSbox x, sboxHam_eq x⟩
  rintro rfl
  exact affinePreimage_sbox_zero

/-! ## The other transforms and their inverses (R118, R120, R122) -/

@[simp] theorem invShiftRows_shiftRows {α : Type} (S : Lanes α) : invShiftRows (shiftRows S) = S := rfl

@[simp] theorem shiftRows_invShiftRows {α : Type} (S : Lanes α) : shiftRows (invShiftRows S) = S := rfl

@[simp] theorem invSubBytes_subBytes (S : Lanes Byte) : invSubBytes (subBytes S) = S :=
  Lanes.map_map_cancel invSbox_sbox S

@[simp] theorem subBytes_invSubBytes (S : Lanes Byte) : subBytes (invSubBytes S) = S :=
  Lanes.map_map_cancel sbox_invSbox S

@[simp] theorem addRoundKey_addRoundKey (rk : Memory) (k : Nat) (S : Lanes Byte) :
    addRoundKey rk k (addRoundKey rk k S) = S :=
  Lanes.xor_xor_cancel S (roundKey rk k)

/-- Settles O8, transform by transform. -/
theorem inverseTransformsUndo : Obligations.InverseTransformsUndo := by
  unfold Obligations.InverseTransformsUndo
  intro S
  exact ⟨invShiftRows_shiftRows S, shiftRows_invShiftRows S, invSubBytes_subBytes S,
    subBytes_invSubBytes S, invMixColumns_mixColumns S, mixColumns_invMixColumns S,
    fun rk k => addRoundKey_addRoundKey rk k S⟩

/-! ## ISHR, ISUB and IMIX (R124 to R126) -/

/-- Settles O25: the three are unguarded, and IMIX's result is named by what MixColumns makes of it. -/
theorem inverseResults : Obligations.InverseResults := by
  unfold Obligations.InverseResults
  intro s hidx
  exact ⟨⟨complete (faultFree s .ishr), exec_instr_unguarded (m := .ishr) hidx rfl,
      fun _ _ hc hr => Lanes.entry_build _ hc hr, rfl⟩,
    ⟨complete (faultFree s .isub), exec_instr_unguarded (m := .isub) hidx rfl,
      Lanes.get_map invSbox s.S, rfl⟩,
    ⟨complete (faultFree s .imix), exec_instr_unguarded (m := .imix) hidx rfl,
      mixColumns_invMixColumns s.S, rfl⟩⟩

end Machine
end Sys2Proof
end

section
/-! One sequencer step of any command at any position of its list (45_driver.md R175): its frame under
every upset, and its exact next state where no upset counts. -/
namespace Sys2Proof.Machine

/-! ## The exact next state -/

/-- A micro-operation has the effect of its rule where no upset counts: an unguarded one takes no mask
(41_transforms.md R120), a guarded one is given none. -/
theorem micro_eq_faultFree {m : MicroOp} {s : State}
    (hseu : guardedTransform s.rk m.instr ≠ none → s.seu = .none)
    (hsync : readsPcode m.instr = true → Synced s) : micro m s = .ok (faultFree s m) := by
  by_cases hf : guardedTransform s.rk m.instr = none
  · exact micro_unguarded hf
  · exact micro_faultFree (hseu hf) hsync

/-- Settles O32: the effect of the entry's rule, and then the end of the list or the next entry. -/
theorem sequencerStepFaultFree : Obligations.SequencerStepFaultFree := by
  unfold Obligations.SequencerStepFaultFree
  intro i m s hentry hseu hsync
  obtain ⟨-, -, hidx, -⟩ := faultFree_frame m s
  rw [exec_of_entry hentry, micro_eq_faultFree hseu hsync]
  split
  · next hlast => exact congrArg _ (advance_ok_last (hidx ▸ hlast))
  · next hinside => rw [advance_ok_inside (hidx ▸ hinside), hidx]

/-! ## The frame -/

/-- The event record and CORRECTED are those of `s` (43_verify_correct.md R148). -/
def EventRecordKept (s t : State) : Prop :=
  t.lastdiff = s.lastdiff ∧ t.lastcorr = s.lastcorr ∧ t.unrecmask = s.unrecmask ∧
    t.estep = s.estep ∧ t.eindex = s.eindex ∧ t.corrected = s.corrected

/-- A step from `s` with the word `op` left its event record in `t`. -/
def EventRecorded (op : Byte) (s t : State) : Prop :=
  (∃ n, t.lastdiff.get n ≠ 0) ∧ t.estep = op ∧ t.eindex = s.idx ∧
    t.corrected = (s.corrected || t.lastcorr != 0)

/-- Every micro-operation but CLRSTAT's keeps CMDERR and the event record, or is guarded and leaves the
record of its own step. -/
theorem micro_state_record {m : MicroOp} (hm : m ≠ .clrstat) (s : State) :
    (micro m s).state.cmderr = s.cmderr ∧
      (EventRecordKept s (micro m s).state ∨
        (guardedTransform s.rk m.instr ≠ none ∧
          EventRecorded (encode m.instr) s (micro m s).state)) := by
  cases hf : guardedTransform s.rk m.instr with
  | none =>
    rw [micro_unguarded hf]
    cases m with
    | clrstat => exact absurd rfl hm
    | _ => cases hf <;> exact ⟨rfl, .inl ⟨rfl, rfl, rfl, rfl, rfl, rfl⟩⟩
  | some f =>
    obtain ⟨p, -, e⟩ := micro_guarded hf
    obtain ⟨t, hv, -, -, -, -, -, hcmderr, -, -, -, -, -, -, hrecord⟩ :=
      verifyCorrect_frame (encode m.instr) (guardedPhases p f s)
    have ht : (micro m s).state = t := by
      rw [e, guardedStep]
      rcases hv with ⟨hok, -⟩ | ⟨hraised, -⟩
      · rw [hok]; rfl
      · rw [hraised]; rfl
    rw [ht]
    exact ⟨hcmderr, hrecord.imp_right fun h => ⟨nofun, h⟩⟩

/-- An unguarded entry raises no Fault. -/
theorem guarded_of_enters_fault {len : Nat} {m : MicroOp} {s : State} (hs : s.mode ≠ .fault)
    (ht : (advance len (micro m s)).mode = .fault) : guardedTransform s.rk m.instr ≠ none := by
  intro hf
  rw [micro_unguarded hf] at ht
  have hmode : (faultFree s m).mode = s.mode := by cases m <;> rfl
  rcases advance_ok_mode len (faultFree s m) with h | h
  · exact nomatch h.symm.trans ht
  · exact hs (hmode ▸ h.symm.trans ht)

/-- The fault record changes only in FAULT (60_exceptions.md R204). -/
theorem advance_micro_faultRecord {len : Nat} {m : MicroOp} {s : State}
    (ht : (advance len (micro m s)).mode ≠ .fault) :
    (micro m s).state.failmask = s.failmask ∧ (micro m s).state.fcause = s.fcause := by
  obtain ⟨u, ⟨e, -, -, hfail, hcause⟩ | ⟨e, hmode, -⟩, -⟩ := micro_frame m s
  · rw [e]; exact ⟨hfail, hcause⟩
  · rw [e] at ht; exact absurd hmode ht

/-- Settles O31: the entry's micro-operation leaves all of it, and the sequencer touches only mode,
position and DONE. -/
theorem sequencerFrame : Obligations.SequencerFrame := by
  unfold Obligations.SequencerFrame
  intro i m s t hentry hexec
  obtain rfl : advance (microList s.variant i).length (micro m s) = t :=
    Host.Outcome.next.inj ((exec_of_entry hentry).symm.trans hexec)
  have hfault := advance_micro_faultRecord (len := (microList s.variant i).length) (m := m) (s := s)
  have hguard := guarded_of_enters_fault (len := (microList s.variant i).length) (m := m) (s := s)
  obtain ⟨u, hu, hv, hr, hrk, htop, -, hrdata, hseu, hagenda, hfree, hlow⟩ := micro_frame m s
  obtain ⟨md, ix, dn, e⟩ := advance_frame (microList s.variant i).length (micro m s)
  have hstate : (micro m s).state = u := by
    rcases hu with ⟨h, -⟩ | ⟨h, -⟩ <;> rw [h] <;> rfl
  have hrecord (hm : m ≠ .clrstat) := hstate ▸ micro_state_record hm s
  rw [hstate] at e hfault
  rw [e] at hfault hguard ⊢
  refine ⟨hv, hr, fun a => congrArg (Memory.read · a) hrk, hrk, htop, hrdata, hseu, hagenda, hfree, hlow,
    fun hf => ?_, fun hm => (hrecord hm).1, hfault, hguard, fun hm => (hrecord hm).2⟩
  rw [← hstate, micro_unguarded hf]
  exact ⟨rfl, rfl⟩

end Sys2Proof.Machine
end

section
/-! The Prediction Engine: each predictor gives the codes of the transformed State (42_prediction.md R136);
and one guarded step under every mask, the verdict taken on what its phases leave (44_guarded_ops.md
R160). -/
namespace Sys2Proof.Machine

/-! ## The predictors -/

/-- A matrix of codes describes a State exactly when it is that State's codes. -/
theorem eq_codes_iff {P : Lanes Nibble} {X : Lanes Byte} :
    P = codes X ↔ ∀ n, P.get n = codeOf (X.get n) :=
  ⟨fun h n => by rw [h, get_codes], fun h => Lanes.ext_get fun n => by rw [h n, get_codes]⟩

/-- The table of R134, lane by lane (42_prediction.md R130). -/
theorem predictSub_eq_codes (S : Lanes Byte) (pcode : Lanes Nibble) :
    predictSub S pcode = codes (subBytes S) :=
  eq_codes_iff.2 fun n => by simp only [predictSub, subBytes, Lanes.get_map, sboxHam_eq]

/-- The second copy of MixColumns is MixColumns (42_prediction.md R132). -/
theorem predictMix_eq_codes (S : Lanes Byte) (pcode : Lanes Nibble) :
    predictMix S pcode = codes (mixColumns S) := rfl

/-- Codes move with their bytes (42_prediction.md R131). -/
theorem predictShift_codes (S : Lanes Byte) : predictShift S (codes S) = codes (shiftRows S) := rfl

/-- The code is linear, so the round key's codes add up with the old ones (42_prediction.md R133). -/
theorem predictArk_codes (rk : Memory) (k : Nat) (S : Lanes Byte) :
    predictArk rk k S (codes S) = codes (addRoundKey rk k S) :=
  (codes_xor S (roundKey rk k)).symm

/-- Settles O9: two predictors compute the codes of the transformed State afresh, two update the codes of
the State before it. -/
theorem predictorsAreRight : Obligations.PredictorsAreRight := by
  unfold Obligations.PredictorsAreRight
  intro rk k S pcode
  refine ⟨eq_codes_iff.1 (predictSub_eq_codes S pcode), eq_codes_iff.1 (predictMix_eq_codes S pcode),
    fun hsync => ?_⟩
  obtain rfl := eq_codes_iff.2 hsync
  exact ⟨eq_codes_iff.1 (predictShift_codes S), eq_codes_iff.1 (predictArk_codes rk k S)⟩

/-! ## One guarded step under every mask -/

/-- What the phases of a guarded micro-operation leave for the verification, the masks of the step at their
points (44_guarded_ops.md R160, 1 to 5). -/
def upsetResult (f : Lanes Byte → Lanes Byte) (m : MicroOp) (s : State) : State :=
  { s with
    S := (f (s.S.xor s.seu.a)).xor s.seu.b
    pcode := (predictedCode s m).xor s.seu.c }

theorem upsetResult_idx (f : Lanes Byte → Lanes Byte) (m : MicroOp) (s : State) :
    (upsetResult f m s).idx = s.idx := rfl

/-- A guarded micro-operation is the verification of what its phases leave. -/
theorem micro_eq_verifyCorrect {m : MicroOp} {f : Lanes Byte → Lanes Byte} {s : State}
    (hf : guardedTransform s.rk m.instr = some f) :
    micro m s = verifyCorrect (encode m.instr) (upsetResult f m s) := by
  obtain ⟨predict, hpredict, e⟩ := micro_guarded hf
  rw [e, guardedStep, guardedPhases, hpredict, upsetResult]

/-- A verification that passes leaves the sequencer's position. -/
theorem idx_of_verifyCorrect_ok {op : Byte} {s t : State} (h : verifyCorrect op s = .ok t) :
    t.idx = s.idx := by
  obtain ⟨u, ⟨hok, -⟩ | ⟨hraised, -⟩, -, -, -, -, hidx, -⟩ := verifyCorrect_frame op s
  · cases hok.symm.trans h
    exact hidx
  · exact nomatch hraised.symm.trans h

/-- The sequencer after an entry that ended without a Fault and left its position (45_driver.md R175). -/
theorem advance_ok_of_idx {len : Nat} {s t : State} (hidx : t.idx = s.idx) :
    advance len (.ok t) =
      if s.idx.toNat + 1 = len then { t with mode := .idle, idx := 0, done := true }
      else { t with idx := s.idx + 1 } := by
  rw [advance, hidx]
  rfl

/-- With a right prediction, the syndrome of a byte is what the upset at point A changed in its code through
the transform, and the masks of points B and C (44_guarded_ops.md R160, 43_verify_correct.md R141). -/
theorem syndromeAt_upsetResult {m : MicroOp} {f : Lanes Byte → Lanes Byte} {s : State}
    (hf : guardedTransform s.rk m.instr = some f) (hsync : readsPcode m.instr = true → Synced s)
    (n : Fin 16) :
    syndromeAt (upsetResult f m s) n =
      codeOf ((f (s.S.xor s.seu.a)).get n) ^^^ codeOf ((f s.S).get n) ^^^
        codeOf (s.seu.b.get n) ^^^ s.seu.c.get n := by
  simp only [syndromeAt, upsetResult, predictedCode_eq hf hsync, Lanes.get_xor, get_codes, codeOf_xor]
  ac_rfl

/-- Settles O33: the entry is the verification of `upsetResult`, and its verdict is the sequencer's. -/
theorem guardedStepUnderMasks : Obligations.GuardedStepUnderMasks := by
  unfold Obligations.GuardedStepUnderMasks
  intro i m f s hentry hf
  have hexec := exec_of_entry hentry
  rw [micro_eq_verifyCorrect hf] at hexec
  refine ⟨fun t (hok : verifyCorrect _ (upsetResult f m s) = _) => ?_,
    fun t (hraised : verifyCorrect _ (upsetResult f m s) = _) => ?_,
    fun hsync n => syndromeAt_upsetResult hf hsync n⟩
  · have hidx := (idx_of_verifyCorrect_ok hok).trans (upsetResult_idx f m s)
    rw [hexec, hok, advance_ok_of_idx hidx]
  · rw [hexec, hraised, advance_raised]

end Sys2Proof.Machine
end

section
/-! The syndrome decoder and the corrector, syndrome by syndrome (43_verify_correct.md R144, R145). -/
namespace Sys2Proof.Machine

/-! ## The syndrome decoder -/

theorem lt_of_synDec : ∀ d : Nibble, ∀ k ∈ synDec d, k < 8 := by decide

theorem synDec_codeOf_bit : ∀ k : Fin 8, synDec (codeOf (1#8 <<< k.val)) = some k.val := by decide

/-- The decoder finds bit `k` exactly for the syndrome of a flip of bit `k`. -/
theorem synDec_eq_some_iff (d : Nibble) (k : Nat) :
    synDec d = some k ↔ k < 8 ∧ d = codeOf (1#8 <<< k) := by
  constructor
  · intro h
    exact ⟨lt_of_synDec d k h, eq_codeOf_of_synDec h⟩
  · rintro ⟨hk, rfl⟩
    exact synDec_codeOf_bit ⟨k, hk⟩

/-- The nonzero syndromes outside the table are the seven that no flipped data bit has. -/
theorem unmatched_iff_unrecognized :
    ∀ d : Nibble, (d ≠ 0 ∧ synDec d = none) ↔ unrecognized d = true := by decide

/-- Settles O5: the table holds each bit's syndrome and no other. -/
theorem syndromeDecoder : Obligations.SyndromeDecoder := by
  unfold Obligations.SyndromeDecoder
  exact fun d => ⟨synDec_eq_some_iff d, unmatched_iff_unrecognized d, rfl⟩

/-- The test behind the corrector's mask of unrecognised bytes (43_verify_correct.md R145). -/
theorem unmatched_eq_unrecognized (d : Nibble) :
    (d != 0 && (synDec d).isNone) = unrecognized d := by
  rw [Bool.eq_iff_iff, ← unmatched_iff_unrecognized d]
  simp

/-- The test behind its mask of flipped bytes. -/
theorem matched_iff (d : Nibble) :
    (d != 0 && (synDec d).isSome) = true ↔ ∃ k : Fin 8, d = codeOf (1#8 <<< k.val) := by
  revert d; decide

theorem unrecognized_codeOf_bit :
    ∀ k : Fin 8, unrecognized (codeOf (1#8 <<< k.val)) = false := by decide

/-! ## The corrector -/

theorem correctByte_codeOf_bit (b : Byte) (k : Fin 8) :
    correctByte b (codeOf (1#8 <<< k.val)) = b ^^^ 1#8 <<< k.val := by
  rw [correctByte, synDec_codeOf_bit k]

/-- A byte whose syndrome is that of no data bit stays as observed. -/
theorem correctByte_of_ne {b : Byte} {d : Nibble} (h : ∀ k : Fin 8, d ≠ codeOf (1#8 <<< k.val)) :
    correctByte b d = b := by
  rw [correctByte]
  cases hd : synDec d with
  | none => rfl
  | some k =>
    obtain ⟨hk, hcode⟩ := (synDec_eq_some_iff d k).1 hd
    exact absurd hcode (h ⟨k, hk⟩)

theorem correctByte_of_unrecognized {b : Byte} {d : Nibble} (h : unrecognized d = true) :
    correctByte b d = b := by
  obtain ⟨-, hnone⟩ := (unmatched_iff_unrecognized d).2 h
  rw [correctByte, hnone]

/-- What the corrector flips is read from the syndrome alone. -/
theorem correctByte_xor_self (b c : Byte) (d : Nibble) :
    correctByte b d ^^^ b = correctByte c d ^^^ c := by
  unfold correctByte
  cases synDec d with
  | none => rw [BitVec.xor_self, BitVec.xor_self]
  | some k =>
    dsimp only
    rw [BitVec.xor_comm b, BitVec.xor_comm c, BitVec.xor_assoc, BitVec.xor_assoc, BitVec.xor_self,
      BitVec.xor_self]

end Sys2Proof.Machine
end

section
/-! The verdict of a verification and the records it leaves, read from the syndromes of the 16 bytes
(43_verify_correct.md R145 to R149, 60_exceptions.md R201, R204). -/
namespace Sys2Proof.Machine

/-! ## The masks, lane by lane -/

section
variable (op : Byte) (s : State) (n : Fin 16)

theorem eventState_lastdiff_get : (eventState op s).lastdiff.get n = syndromeAt s n :=
  get_syndromes_eq s n

theorem eventState_lastcorr_iff :
    (eventState op s).lastcorr.getLsbD n.val = true ↔
      ∃ k : Fin 8, syndromeAt s n = codeOf (1#8 <<< k.val) := by
  rw [eventState, recordEvent_lastcorr, getLsbD_maskOf, matchedLanes, Lanes.get_map,
    get_syndromes_eq, matched_iff]

theorem eventState_unrecmask_get :
    (eventState op s).unrecmask.getLsbD n.val = unrecognized (syndromeAt s n) := by
  rw [eventState, recordEvent_unrecmask, getLsbD_maskOf, unmatchedLanes, Lanes.get_map,
    get_syndromes_eq, unmatched_eq_unrecognized]

end

/-- Under REFRESH the unrecognised bytes fail (43_verify_correct.md R149 (a)). -/
theorem failMask_get_of_refresh {s : State} (h : s.recheck = .refresh) (n : Fin 16) :
    (failMask s).getLsbD n.val = unrecognized (syndromeAt s n) := by
  rw [failMask_of_refresh 0 h, eventState_unrecmask_get]

/-- Under STALE every byte with a syndrome fails (R149 (b)). -/
theorem failMask_get_of_stale {s : State} (h : s.recheck = .stale) (n : Fin 16) :
    (failMask s).getLsbD n.val = (syndromeAt s n != 0) := by
  rw [failMask_of_stale 0 h, eventState_masks_cover, eventState_lastdiff_get]

theorem failMask_eq_zero_of_refresh {s : State} (h : s.recheck = .refresh)
    (hall : ∀ n, unrecognized (syndromeAt s n) = false) : failMask s = 0 :=
  mask_ext fun n => by rw [failMask_get_of_refresh h, hall n]; simp

theorem ne_zero_of_getLsbD {x : BitVec 16} {n : Nat} (h : x.getLsbD n = true) : x ≠ 0 := by
  rintro rfl
  simp at h

/-! ## The verdict -/

/-- The state an event step leaves in FAULT. -/
def faultState (op : Byte) (s : State) : State :=
  raiseFault (failMask s) (eventState op s).lastcorr (eventState op s).unrecmask (eventState op s)

/-- No syndrome in any byte: nothing changes. -/
theorem verifyCorrect_of_no_syndrome (op : Byte) {s : State} (h : ∀ n, syndromeAt s n = 0) :
    verifyCorrect op s = .ok s :=
  verifyCorrect_quiet op s fun n => (get_syndromes_eq s n).trans (h n)

/-- A failing byte raises the Fault: it has a syndrome, so its step is an event step. -/
theorem verifyCorrect_of_failing (op : Byte) {s : State} (h : failMask s ≠ 0) :
    verifyCorrect op s = .raised (faultState op s) := by
  rcases verifyCorrect_cases op s with ⟨hquiet, -⟩ | ⟨-, hzero, -⟩ | ⟨-, -, e⟩
  · refine absurd (mask_ext fun n => ?_) h
    rw [failMask_of_quiet s n (hquiet n)]
    simp
  · exact absurd hzero h
  · exact e

/-- The phase ends in one of its two ways with the state it leaves. -/
theorem verifyCorrect_eq_state (op : Byte) (s : State) :
    verifyCorrect op s = .ok (verifyCorrect op s).state ∨
      verifyCorrect op s = .raised (verifyCorrect op s).state := by
  cases verifyCorrect op s with
  | ok t => exact .inl rfl
  | raised t => exact .inr rfl

/-- Without a failing byte the phase passes. -/
theorem verifyCorrect_of_passing (op : Byte) {s : State} (h : failMask s = 0) :
    verifyCorrect op s = .ok (verifyCorrect op s).state := by
  rcases verifyCorrect_cases op s with ⟨-, e⟩ | ⟨-, -, e⟩ | ⟨-, hne, -⟩
  · rw [e]; rfl
  · rw [e]; rfl
  · exact absurd h hne

/-! ## What the phase leaves -/

/-- Whatever the verdict, every byte is left as its corrector makes it. -/
theorem verifyCorrect_S_get (op : Byte) (s : State) (n : Fin 16) :
    (verifyCorrect op s).state.S.get n = correctByte (s.S.get n) (syndromeAt s n) := by
  rcases verifyCorrect_cases op s with ⟨hquiet, e⟩ | ⟨-, -, e⟩ | ⟨-, -, e⟩ <;> rw [e]
  · rw [← get_syndromes_eq, hquiet n]
    rfl
  · exact eventState_get op s n
  · exact eventState_get op s n

theorem verifyCorrect_pcode (op : Byte) (s : State) : (verifyCorrect op s).state.pcode = s.pcode := by
  rcases verifyCorrect_cases op s with ⟨-, e⟩ | ⟨-, -, e⟩ | ⟨-, -, e⟩ <;> rw [e] <;> rfl

/-- Whatever the verdict, an event step leaves its record; the Fault changes none of it
(60_exceptions.md R204). -/
theorem verifyCorrect_record (op : Byte) {s : State} (h : ∃ n, syndromeAt s n ≠ 0) :
    ∃ md dn fail cause, (verifyCorrect op s).state =
      { eventState op s with mode := md, done := dn, failmask := fail, fcause := cause } := by
  obtain ⟨n, hn⟩ := h
  rcases verifyCorrect_cases op s with ⟨hquiet, -⟩ | ⟨-, -, e⟩ | ⟨-, -, e⟩
  · exact absurd (get_syndromes_eq s n ▸ hquiet n) hn
  · exact ⟨s.mode, s.done, s.failmask, s.fcause, by rw [e]; rfl⟩
  · exact ⟨.fault, false, _, _, by rw [e]; rfl⟩

/-- Settles O10, in the state the phase leaves. -/
theorem correctorAndEventRecord : Obligations.CorrectorAndEventRecord := by
  unfold Obligations.CorrectorAndEventRecord
  intro op s
  refine ⟨(verifyCorrect op s).state, verifyCorrect_eq_state op s, fun n k h => ?_, fun n h => ?_,
    verifyCorrect_pcode op s, fun h => ?_, fun h => ?_⟩
  · rw [verifyCorrect_S_get, h, correctByte_codeOf_bit]
  · rw [verifyCorrect_S_get, correctByte_of_ne h]
  · rw [verifyCorrect_of_no_syndrome op h]
    rfl
  · obtain ⟨md, dn, fail, cause, e⟩ := verifyCorrect_record op h
    rw [e]
    exact ⟨eventState_lastdiff_get op s, eventState_lastcorr_iff op s, eventState_unrecmask_get op s,
      rfl, rfl, rfl⟩

/-! ## The cause bits (60_exceptions.md R201) -/

/-- Where exactly the unrecognised bytes fail, the cause is UNRECOGNIZED alone. -/
theorem fcauseOf_unrecognized {corr unrec : BitVec 16} (hdisjoint : corr &&& unrec = 0)
    (hne : unrec ≠ 0) : fcauseOf unrec corr unrec = 0x02 := by
  rw [fcauseOf_eq, BitVec.and_self, if_neg hne, BitVec.and_comm, if_pos hdisjoint]
  rfl

theorem and_or_absorb (x y : BitVec 16) : (x ||| y) &&& y = y := by
  ext i hi
  rw [BitVec.getElem_and, BitVec.getElem_or]
  cases x[i] <;> cases y[i] <;> rfl

/-- Where every recorded byte fails, each cause bit says whether there is a byte of its kind. -/
theorem fcauseOf_recorded (corr unrec : BitVec 16) :
    fcauseOf (corr ||| unrec) corr unrec =
      (if unrec = 0 then 0x00 else 0x02) ||| (if corr = 0 then 0x00 else 0x01) := by
  rw [fcauseOf_eq, and_or_absorb, BitVec.or_comm corr, and_or_absorb]

theorem fcauseOf_bits (fail corr unrec : BitVec 16) :
    ((fcauseOf fail corr unrec).getLsbD 0 = true ↔ fail &&& corr ≠ 0) ∧
      ((fcauseOf fail corr unrec).getLsbD 1 = true ↔ fail &&& unrec ≠ 0) := by
  have bits : ∀ p q : Bool, (0#6 ++ BitVec.ofBool p ++ BitVec.ofBool q).getLsbD 0 = q ∧
      (0#6 ++ BitVec.ofBool p ++ BitVec.ofBool q).getLsbD 1 = p := by decide
  obtain ⟨hcorrectable, hunrecognized⟩ := bits (fail &&& unrec != 0) (fail &&& corr != 0)
  rw [fcauseOf, hcorrectable, hunrecognized, bne_iff_ne, bne_iff_ne]
  exact ⟨Iff.rfl, Iff.rfl⟩

/-- Settles O60, by the clauses of the invariant about the masks in FAULT. -/
theorem faultCauses : Obligations.FaultCauses := by
  unfold Obligations.FaultCauses
  intro s hinv hfault
  have hr := hinv.records
  rw [hr.causeOf hfault]
  refine ⟨fun hrefresh => ?_, fun hstale => ?_⟩
  · have hfail := hr.failRefresh hfault hrefresh
    rw [hfail]
    exact fcauseOf_unrecognized hr.masksDisjoint (hfail ▸ hr.failSome hfault)
  · rw [hr.failStale hfault hstale, fcauseOf_recorded]

/-! ## The verdict under either RECHECK -/

/-- Under REFRESH a Fault has the cause UNRECOGNIZED alone (60_exceptions.md R201). -/
theorem faultState_fcause_of_refresh (op : Byte) {s : State} (h : s.recheck = .refresh)
    (hne : failMask s ≠ 0) : (faultState op s).fcause = 0x02 := by
  have hmask := failMask_of_refresh op h
  rw [faultState, raiseFault_fcause, hmask]
  exact fcauseOf_unrecognized (eventState_masks_disjoint op s) (hmask ▸ hne)

/-- Settles O11: the failing bytes are the unrecognised ones, and without one the corrected bytes have
the predicted codes. -/
theorem refreshVerdict : Obligations.RefreshVerdict := by
  unfold Obligations.RefreshVerdict
  intro op s hrefresh
  have hfail := failMask_get_of_refresh hrefresh
  refine ⟨fun ⟨n, hn⟩ => ?_, fun hall => ?_⟩
  · have hne : failMask s ≠ 0 := ne_zero_of_getLsbD ((hfail n).trans hn)
    exact ⟨faultState op s, verifyCorrect_of_failing op hne, rfl, rfl,
      faultState_fcause_of_refresh op hrefresh hne, failMask_of_refresh op hrefresh, hfail⟩
  · refine ⟨_, verifyCorrect_of_passing op (failMask_eq_zero_of_refresh hrefresh hall), fun n => ?_⟩
    rw [verifyCorrect_pcode, verifyCorrect_S_get]
    have hrecheck := recheck_correctByte (s.S.get n) (s.pcode.get n)
    rw [unmatched_eq_unrecognized] at hrecheck
    exact (BitVec.xor_eq_zero_iff.1 (bne_eq_false_iff_eq.1 (hrecheck.trans (hall n)))).symm

/-- Settles O12: the failing bytes are those with a syndrome. -/
theorem staleVerdict : Obligations.StaleVerdict := by
  unfold Obligations.StaleVerdict
  intro op s hstale
  have hfail := failMask_get_of_stale hstale
  refine ⟨fun ⟨n, hn⟩ => ?_, verifyCorrect_of_no_syndrome op⟩
  have hmask := failMask_of_stale op hstale
  obtain ⟨hcorrectable, hunrecognized⟩ :=
    fcauseOf_bits (failMask s) (eventState op s).lastcorr (eventState op s).unrecmask
  have hcorr : failMask s &&& (eventState op s).lastcorr = (eventState op s).lastcorr := by
    rw [hmask, BitVec.or_comm, and_or_absorb]
  have hunrec : failMask s &&& (eventState op s).unrecmask = (eventState op s).unrecmask := by
    rw [hmask, and_or_absorb]
  rw [hcorr] at hcorrectable
  rw [hunrec] at hunrecognized
  have hne : failMask s ≠ 0 := ne_zero_of_getLsbD ((hfail n).trans (bne_iff_ne.2 hn))
  exact ⟨faultState op s, verifyCorrect_of_failing op hne, rfl, rfl,
    hmask, hfail, hcorrectable, hunrecognized, eventState_get op s⟩

/-! ## Two states with the same syndromes -/

section
variable {s p : State} (hsame : ∀ n, syndromeAt s n = syndromeAt p n)
include hsame

theorem failMask_congr (hrecheck : s.recheck = p.recheck) : failMask s = failMask p := by
  refine mask_ext fun n => ?_
  cases h : s.recheck with
  | refresh =>
    rw [failMask_get_of_refresh h, failMask_get_of_refresh (hrecheck ▸ h), hsame]
  | stale =>
    rw [failMask_get_of_stale h, failMask_get_of_stale (hrecheck ▸ h), hsame]

theorem eventState_record_congr (op : Byte) :
    (eventState op s).lastdiff = (eventState op p).lastdiff ∧
      (eventState op s).lastcorr = (eventState op p).lastcorr ∧
      (eventState op s).unrecmask = (eventState op p).unrecmask := by
  have hdiff : syndromes s.S s.pcode = syndromes p.S p.pcode :=
    Lanes.ext_get fun n => by rw [get_syndromes_eq, get_syndromes_eq, hsame]
  simp only [eventState, recordEvent_lastdiff, recordEvent_lastcorr, recordEvent_unrecmask, hdiff,
    and_self]

theorem verifyCorrect_verdict_congr (op : Byte) (hrecheck : s.recheck = p.recheck) :
    (verifyCorrect op s = .ok (verifyCorrect op s).state ∧
        verifyCorrect op p = .ok (verifyCorrect op p).state) ∨
      (verifyCorrect op s = .raised (faultState op s) ∧
        verifyCorrect op p = .raised (faultState op p) ∧
        (faultState op s).failmask = (faultState op p).failmask ∧
        (faultState op s).fcause = (faultState op p).fcause) := by
  have hfail := failMask_congr hsame hrecheck
  obtain ⟨-, hcorr, hunrec⟩ := eventState_record_congr hsame op
  by_cases hzero : failMask s = 0
  · exact .inl ⟨verifyCorrect_of_passing op hzero, verifyCorrect_of_passing op (hfail ▸ hzero)⟩
  · refine .inr ⟨verifyCorrect_of_failing op hzero, verifyCorrect_of_failing op (hfail ▸ hzero), hfail,
      ?_⟩
    rw [faultState, faultState, raiseFault_fcause, raiseFault_fcause, hfail, hcorr, hunrec]

end

/-- Settles O13: the failing bytes, the record and the flips are functions of the syndromes. -/
theorem verdictIgnoresData : Obligations.VerdictIgnoresData := by
  unfold Obligations.VerdictIgnoresData
  intro op s p hrecheck hidx hsame hevent
  obtain ⟨_, _, _, _, hs⟩ := verifyCorrect_record op hevent
  obtain ⟨_, _, _, _, hp⟩ := verifyCorrect_record op (hevent.imp fun n hn => hsame n ▸ hn)
  obtain ⟨hdiff, hcorr, hunrec⟩ := eventState_record_congr hsame op
  have hflips (n : Fin 16) : (verifyCorrect op s).state.S.get n ^^^ s.S.get n =
      (verifyCorrect op p).state.S.get n ^^^ p.S.get n := by
    rw [verifyCorrect_S_get, verifyCorrect_S_get, hsame]
    exact correctByte_xor_self _ _ _
  refine ⟨(verifyCorrect op s).state, (verifyCorrect op p).state, ?_, ?_, ?_, ?_, ?_, ?_, hflips⟩
  · rcases verifyCorrect_verdict_congr hsame op hrecheck with hpass | ⟨es, ep, hfail, hcause⟩
    · exact .inl hpass
    · rw [es, ep]
      exact .inr ⟨rfl, rfl, hfail, hcause⟩
  all_goals rw [hs, hp]
  · exact hdiff
  · exact hcorr
  · exact hunrec
  · rfl
  · exact hidx

end Sys2Proof.Machine
end

section
/-! A guarded step of any command with an upset in State (43_verify_correct.md R149, 44_guarded_ops.md R160,
70_reset_and_hazards.md R243, R244): the syndromes are the codes of the mask that State was left with. -/
namespace Sys2Proof.Machine

/-! ## What a mask is to the codec -/

theorem unrecognized_of_atMostOneBit {e : Byte} (h : AtMostOneBit e) :
    unrecognized (codeOf e) = false := by
  rcases h with rfl | ⟨k, rfl⟩
  · rfl
  · exact unrecognized_codeOf_bit k

/-- A mask of at most one bit has the syndrome by which the corrector takes it back. -/
theorem correctByte_restores {e : Byte} (h : AtMostOneBit e) (b : Byte) :
    correctByte (b ^^^ e) (codeOf e) = b := by
  rcases h with rfl | ⟨k, rfl⟩
  · exact BitVec.xor_zero
  · rw [correctByte_codeOf_bit, BitVec.xor_assoc, BitVec.xor_self, BitVec.xor_zero]

/-- What the verification finds after an upset in State: PCODE describes `X`, State is `X` with the
mask `e`. -/
def upsetFrom (s : State) (X e : Lanes Byte) : State := withData s (X.xor e) (codes X)

theorem upsetFrom_get (s : State) (X e : Lanes Byte) (n : Fin 16) :
    (upsetFrom s X e).S.get n = X.get n ^^^ e.get n :=
  Lanes.get_xor X e n

theorem syndromeAt_upsetFrom (s : State) (X e : Lanes Byte) (n : Fin 16) :
    syndromeAt (upsetFrom s X e) n = codeOf (e.get n) := by
  rw [syndromeAt, upsetFrom_get, codeOf_xor, upsetFrom, withData, get_codes, BitVec.xor_comm,
    xor_self_xor]

theorem failMask_upsetFrom_refresh {s : State} (h : s.recheck = .refresh) (X e : Lanes Byte)
    (n : Fin 16) :
    (failMask (upsetFrom s X e)).getLsbD n.val = unrecognized (codeOf (e.get n)) := by
  rw [failMask_get_of_refresh (s := upsetFrom s X e) h, syndromeAt_upsetFrom]

theorem failMask_upsetFrom_stale {s : State} (h : s.recheck = .stale) (X e : Lanes Byte)
    (n : Fin 16) :
    (failMask (upsetFrom s X e)).getLsbD n.val = (codeOf (e.get n) != 0) := by
  rw [failMask_get_of_stale (s := upsetFrom s X e) h, syndromeAt_upsetFrom]

theorem failMask_upsetFrom_eq_zero {s : State} (h : s.recheck = .refresh) (X : Lanes Byte)
    {e : Lanes Byte} (he : ∀ n, unrecognized (codeOf (e.get n)) = false) :
    failMask (upsetFrom s X e) = 0 :=
  failMask_eq_zero_of_refresh (s := upsetFrom s X e) h fun n => by rw [syndromeAt_upsetFrom, he]

/-- LASTDIFF of a Fault holds the codes of the mask (43_verify_correct.md R148). -/
theorem faultState_upsetFrom_lastdiff (op : Byte) (s : State) (X e : Lanes Byte) (n : Fin 16) :
    (faultState op (upsetFrom s X e)).lastdiff.get n = codeOf (e.get n) :=
  (eventState_lastdiff_get op _ n).trans (syndromeAt_upsetFrom s X e n)

/-- A byte with an unrecognised syndrome is left as observed (43_verify_correct.md R145). -/
theorem faultState_upsetFrom_get (op : Byte) (s : State) (X : Lanes Byte) {e : Lanes Byte} {n : Fin 16}
    (h : unrecognized (codeOf (e.get n)) = true) :
    (faultState op (upsetFrom s X e)).S.get n = X.get n ^^^ e.get n := by
  rw [← upsetFrom_get s X e n]
  refine (eventState_get op _ n).trans ?_
  rw [syndromeAt_upsetFrom, correctByte_of_unrecognized h]

/-- An upset at point B alone: the mask enters the transformed State (44_guarded_ops.md R160, 4). -/
theorem micro_upsetAtB {m : MicroOp} {f : Lanes Byte → Lanes Byte} {s : State}
    (hf : guardedTransform s.rk m.instr = some f) (ha : s.seu.a = .fill 0) (hc : s.seu.c = .fill 0)
    (hsync : readsPcode m.instr = true → Synced s) :
    micro m s = verifyCorrect (encode m.instr) (upsetFrom s (f s.S) s.seu.b) := by
  rw [micro_eq_verifyCorrect hf, upsetResult, predictedCode_eq hf hsync, ha, hc, Lanes.xor_fill_zero,
    Lanes.xor_fill_zero]
  rfl

/-- GSHR and GARK take a mask on State to one on the transformed State, whose lanes are lanes of it. -/
theorem transform_xor_of_readsPcode {rk : Memory} {m : MicroOp} {f : Lanes Byte → Lanes Byte}
    (hf : guardedTransform rk m.instr = some f) (hreads : readsPcode m.instr = true)
    (e : Lanes Byte) :
    ∃ e' : Lanes Byte, (∀ S, f (S.xor e) = (f S).xor e') ∧ ∀ n, ∃ p, e'.get n = e.get p := by
  cases m with
  | gshr =>
    cases hf
    refine ⟨shiftRows e, fun S => rfl, fun n => ?_⟩
    refine ⟨⟨4 * ((n.val / 4 + n.val % 4) % 4) + n.val % 4, by omega⟩, ?_⟩
    fin_cases n <;> rfl
  | gark k =>
    cases hf
    refine ⟨e, fun S => Lanes.ext_get fun n => ?_, fun n => ⟨n, rfl⟩⟩
    simp only [addRoundKey, Lanes.get_xor]
    ac_rfl
  | _ => cases hreads

/-- An upset at point A alone of GSHR or GARK is, moved with its bytes, one of point B
(70_reset_and_hazards.md R243). -/
theorem micro_upsetAtA {m : MicroOp} {f : Lanes Byte → Lanes Byte} {s : State}
    (hf : guardedTransform s.rk m.instr = some f) (hreads : readsPcode m.instr = true)
    (hu : SingleBitAtA s.seu) (hsync : Synced s) :
    ∃ e : Lanes Byte, (∀ n, AtMostOneBit (e.get n)) ∧
      micro m s = verifyCorrect (encode m.instr) (upsetFrom s (f s.S) e) := by
  obtain ⟨hbits, hb, hc⟩ := hu
  obtain ⟨e, hxor, hlanes⟩ := transform_xor_of_readsPcode hf hreads s.seu.a
  refine ⟨e, fun n => ?_, ?_⟩
  · obtain ⟨p, hp⟩ := hlanes n
    exact hp ▸ hbits p
  · rw [micro_eq_verifyCorrect hf, upsetResult, predictedCode_eq hf fun _ => hsync, hb, hc, hxor,
      Lanes.xor_fill_zero, Lanes.xor_fill_zero]
    rfl

/-! ## The sequencer's step on such an entry -/

/-- An entry that ended without a Fault and left mode, position and DONE: the sequencer goes on and
changes nothing but those (45_driver.md R175). -/
theorem exec_of_ok {i : Instr} {m : MicroOp} {s t : State}
    (hentry : (microList s.variant i)[s.idx.toNat]? = some m) (hok : micro m s = .ok t)
    (hidx : t.idx = s.idx) (hmode : t.mode = s.mode) (hdone : t.done = s.done) :
    ∃ md ix dn, exec i s = .next { t with mode := md, idx := ix, done := dn } ∧
      WentOn i s { t with mode := md, idx := ix, done := dn } := by
  obtain ⟨hlt, -⟩ := List.getElem?_eq_some_iff.1 hentry
  have hwent := advance_ok_wentOn hlt hidx hmode hdone
  obtain ⟨md, ix, dn, e⟩ := advance_frame (microList s.variant i).length (.ok t)
  rw [e] at hwent
  exact ⟨md, ix, dn, by rw [exec_of_entry hentry, hok, e]; rfl, hwent⟩

/-- A verification that passes leaves the sequencer and the fault record. -/
theorem verifyCorrect_frame_of_passing (op : Byte) {s : State} (h : failMask s = 0) :
    (verifyCorrect op s).state.mode = s.mode ∧ (verifyCorrect op s).state.idx = s.idx ∧
      (verifyCorrect op s).state.done = s.done ∧ (verifyCorrect op s).state.failmask = s.failmask ∧
      (verifyCorrect op s).state.fcause = s.fcause := by
  rcases verifyCorrect_cases op s with ⟨-, e⟩ | ⟨-, -, e⟩ | ⟨-, hne, -⟩
  · rw [e]; exact ⟨rfl, rfl, rfl, rfl, rfl⟩
  · rw [e]; exact ⟨rfl, rfl, rfl, rfl, rfl⟩
  · exact absurd h hne

section
variable {i : Instr} {m : MicroOp} {s : State} {X e : Lanes Byte}
  (hentry : (microList s.variant i)[s.idx.toNat]? = some m)
  (hmicro : micro m s = verifyCorrect (encode m.instr) (upsetFrom s X e))
include hentry hmicro

theorem exec_upset_fault (hfail : failMask (upsetFrom s X e) ≠ 0) :
    exec i s = .next (faultState (encode m.instr) (upsetFrom s X e)) := by
  rw [exec_of_entry hentry, hmicro, verifyCorrect_of_failing _ hfail, advance_raised]

theorem exec_upset_pass (hfail : failMask (upsetFrom s X e) = 0) :
    ∃ t, exec i s = .next t ∧ WentOn i s t ∧ t.failmask = s.failmask ∧ t.fcause = s.fcause ∧
      t.pcode = codes X ∧
      ∀ n, t.S.get n = correctByte (X.get n ^^^ e.get n) (codeOf (e.get n)) := by
  obtain ⟨hmode, hidx, hdone, hmask, hcause⟩ :=
    verifyCorrect_frame_of_passing (encode m.instr) hfail
  have hok := hmicro.trans (verifyCorrect_of_passing _ hfail)
  obtain ⟨md, ix, dn, hexec, hwent⟩ := exec_of_ok hentry hok hidx hmode hdone
  refine ⟨_, hexec, hwent, hmask, hcause, verifyCorrect_pcode _ _, fun n => ?_⟩
  rw [← upsetFrom_get s, ← syndromeAt_upsetFrom s X]
  exact verifyCorrect_S_get _ _ n

/-- Under REFRESH a mask of at most one bit of each byte is undone (43_verify_correct.md R149 (c)). -/
theorem exec_upset_restored (hrefresh : s.recheck = .refresh) (hbits : ∀ n, AtMostOneBit (e.get n)) :
    WentOnWith i s X := by
  obtain ⟨t, hexec, hwent, hmask, hcause, hpcode, hS⟩ := exec_upset_pass hentry hmicro
    (failMask_upsetFrom_eq_zero hrefresh X fun n => unrecognized_of_atMostOneBit (hbits n))
  refine ⟨t, hexec, hwent, Lanes.ext_get fun n => ?_, hpcode, hmask, hcause⟩
  rw [hS, correctByte_restores (hbits n)]

end

/-! ## The guarded entries of every command -/

/-- Settles O16: the mask of point B is undone by the corrector. -/
theorem singleBitAtBRestored : Obligations.SingleBitAtBRestored := by
  unfold Obligations.SingleBitAtBRestored
  intro i m f s hentry hf hrefresh hu hsync
  obtain ⟨ha, hbits, hc⟩ := hu
  exact exec_upset_restored hentry (micro_upsetAtB hf ha hc hsync) hrefresh hbits

/-- Settles O18: the bytes with an unrecognised syndrome fail, and the corrector leaves them. -/
theorem unrecognizedUpsetFaults : Obligations.UnrecognizedUpsetFaults := by
  unfold Obligations.UnrecognizedUpsetFaults
  intro i m f s hentry hf hrefresh ha hc hsync ⟨n, hn⟩
  have hfail := failMask_upsetFrom_refresh hrefresh (f s.S) s.seu.b
  have hne := ne_zero_of_getLsbD ((hfail n).trans hn)
  exact ⟨_, exec_upset_fault hentry (micro_upsetAtB hf ha hc hsync) hne, rfl, rfl, rfl, rfl,
    faultState_fcause_of_refresh _ hrefresh hne, rfl, rfl, rfl, hfail,
    faultState_upsetFrom_lastdiff _ s _ _, fun n hn => faultState_upsetFrom_get _ s _ hn⟩

/-- Settles O19: every byte with a syndrome fails. -/
theorem staleDetectedUpsetFaults : Obligations.StaleDetectedUpsetFaults := by
  unfold Obligations.StaleDetectedUpsetFaults
  intro i m f s hentry hf hstale ha hc hsync ⟨n, hn⟩
  have hfail := failMask_upsetFrom_stale hstale (f s.S) s.seu.b
  have hne := ne_zero_of_getLsbD ((hfail n).trans (bne_iff_ne.2 hn))
  exact ⟨_, exec_upset_fault hentry (micro_upsetAtB hf ha hc hsync) hne, rfl, rfl, rfl, rfl, rfl, rfl,
    faultState_upsetFrom_lastdiff _ s _ _, hfail⟩

/-- Settles O20: no byte fails, and the corrector flips what the mask's syndrome locates. -/
theorem silentMiscorrection : Obligations.SilentMiscorrection := by
  unfold Obligations.SilentMiscorrection
  intro i m f s hentry hf hrefresh ha hc hsync hall
  obtain ⟨t, hexec, hwent, hmask, hcause, -, hS⟩ := exec_upset_pass hentry
    (micro_upsetAtB hf ha hc hsync) (failMask_upsetFrom_eq_zero hrefresh (f s.S) hall)
  refine ⟨t, hexec, hwent, hmask, hcause, fun n => ⟨fun hzero => ?_, fun k hk => ?_⟩⟩
  · rw [hS, hzero]
    exact correctByte_zero _
  · rw [hS, hk, correctByte_codeOf_bit]

/-! ## Issued directly -/

/-- A guarded instruction issues one micro-operation. -/
theorem exists_micro_of_guarded {rk : Memory} {i : Instr} {f : Lanes Byte → Lanes Byte}
    (hf : guardedTransform rk i = some f) : ∃ m : MicroOp, m.instr = i ∧ m ≠ .clrstat := by
  cases i with
  | gsub => exact ⟨.gsub, rfl, nofun⟩
  | gshr => exact ⟨.gshr, rfl, nofun⟩
  | gmix => exact ⟨.gmix, rfl, nofun⟩
  | gark k => exact ⟨.gark k, rfl, nofun⟩
  | _ => cases hf

/-- A micro-operation issued directly runs at position 0 and is the last of its list. -/
theorem exec_instr_next_inv {m : MicroOp} {s t : State} (h : exec m.instr s = .next t) :
    (microList s.variant m.instr)[s.idx.toNat]? = some m ∧ s.idx.toNat + 1 = 1 ∧
      t = advance 1 (micro m s) := by
  obtain ⟨m', hentry, ht⟩ := exec_next_inv h
  rw [microList_instr] at hentry ht ⊢
  obtain ⟨hlt, hm⟩ := List.getElem?_eq_some_iff.1 hentry
  rw [List.length_singleton] at hlt ht
  obtain rfl : m = m' := by rw [← hm, List.getElem_singleton]
  exact ⟨hentry, by omega, ht⟩

/-- Settles O15: the frame of the list's one entry, which completes or enters FAULT. -/
theorem guardedFrame : Obligations.GuardedFrame := by
  unfold Obligations.GuardedFrame
  intro i f s t hf hexec
  obtain ⟨m, rfl, hm⟩ := exists_micro_of_guarded hf
  obtain ⟨hentry, hlast, ht⟩ := exec_instr_next_inv hexec
  obtain ⟨hv, hr, hread, hrk, htop, hrdata, hseu, hagenda, hfree, hlow, -, hcmderr, -, -, hrecord⟩ :=
    sequencerFrame m.instr m s t hentry hexec
  refine ⟨hv, hr, hread, hrk, htop, hcmderr hm, hrdata, hseu, hagenda, hfree, hlow,
    (hrecord hm).imp_right And.right, ?_⟩
  obtain ⟨u, hu, -, -, -, -, hidx, -⟩ := micro_frame m s
  rcases hu with ⟨e, -, -, hfail, hcause⟩ | ⟨e, hmode, hdone, hfail, hcause⟩
  · rw [e, advance_ok_last (hidx ▸ hlast)] at ht
    subst ht
    exact .inl ⟨rfl, rfl, rfl, hfail, hcause⟩
  · rw [e, advance_raised] at ht
    subst ht
    exact .inr ⟨hmode, hdone, hidx, hfail, hcause⟩

end Sys2Proof.Machine
end

section
/-! ENC and DEC with an upset of at most one bit of each State byte in every step
(43_verify_correct.md R149 (c), 70_reset_and_hazards.md R243): under REFRESH each step has the effect of its
rule, so the run computes what the run without an upset computes. -/
namespace Sys2Proof.Machine

/-! ## One step -/

/-- The masks that a step of `m` undoes under REFRESH: those of point B, and, but for GSUB and GMIX, whose
transforms do not keep a mask to its bits, those of point A. -/
def Tolerated (m : MicroOp) (u : Seu) : Prop :=
  SingleBitAtB u ∨ (SingleBitAtA u ∧ m ≠ .gsub ∧ m ≠ .gmix)

theorem readsPcode_of_guarded {rk : Memory} {m : MicroOp} {f : Lanes Byte → Lanes Byte}
    (hf : guardedTransform rk m.instr = some f) (hsub : m ≠ .gsub) (hmix : m ≠ .gmix) :
    readsPcode m.instr = true := by
  cases m with
  | gsub => exact absurd rfl hsub
  | gmix => exact absurd rfl hmix
  | gshr | gark => rfl
  | _ => cases hf

/-- A guarded entry undoes a tolerated upset. -/
theorem exec_guarded_tolerated {i : Instr} {m : MicroOp} {f : Lanes Byte → Lanes Byte} {s : State}
    (hentry : (microList s.variant i)[s.idx.toNat]? = some m)
    (hf : guardedTransform s.rk m.instr = some f) (hrefresh : s.recheck = .refresh)
    (hu : Tolerated m s.seu) (hsync : readsPcode m.instr = true → Synced s) :
    WentOnWith i s (f s.S) := by
  rcases hu with hB | ⟨hA, hsub, hmix⟩
  · exact singleBitAtBRestored i m f s hentry hf hrefresh hB hsync
  · have hreads := readsPcode_of_guarded hf hsub hmix
    obtain ⟨e, hbits, hmicro⟩ := micro_upsetAtA hf hreads hA (hsync hreads)
    exact exec_upset_restored hentry hmicro hrefresh hbits

/-- What else no rule of a micro-operation changes: the mode, DONE and the fault record. -/
theorem faultFree_control (m : MicroOp) (s : State) :
    (faultFree s m).mode = s.mode ∧ (faultFree s m).done = s.done ∧
      (faultFree s m).failmask = s.failmask ∧ (faultFree s m).fcause = s.fcause := by
  cases m <;> exact ⟨rfl, rfl, rfl, rfl⟩

/-- Every entry has the effect of its rule on the data, in spite of a tolerated upset. -/
theorem exec_tolerated {i : Instr} {m : MicroOp} {s : State}
    (hentry : (microList s.variant i)[s.idx.toNat]? = some m) (hrefresh : s.recheck = .refresh)
    (hu : Tolerated m s.seu) (hsync : readsPcode m.instr = true → Synced s) :
    ∃ t, exec i s = .next t ∧ WentOn i s t ∧ SameData (faultFree s m) t ∧
      t.failmask = s.failmask ∧ t.fcause = s.fcause := by
  cases hf : guardedTransform s.rk m.instr with
  | none =>
    obtain ⟨-, -, hidx, -⟩ := faultFree_frame m s
    obtain ⟨hmode, hdone, hmask, hcause⟩ := faultFree_control m s
    obtain ⟨md, ix, dn, hexec, hwent⟩ := exec_of_ok hentry (micro_unguarded hf) hidx hmode hdone
    exact ⟨_, hexec, hwent, ⟨rfl, rfl, rfl, rfl⟩, hmask, hcause⟩
  | some f =>
    obtain ⟨t, hexec, hwent, hS, hpcode, hmask, hcause⟩ :=
      exec_guarded_tolerated hentry hf hrefresh hu hsync
    obtain ⟨hv, -⟩ := exec_parameters hexec
    obtain ⟨hrk, -⟩ := exec_frame hexec
    rw [faultFree_of_guarded hf]
    exact ⟨t, hexec, hwent, ⟨hv, hrk, hS, hpcode⟩, hmask, hcause⟩

/-! ## The entries still to run -/

/-- `L` are the entries of the command `i` that are still to run: in RUN those from the position on, and
none once the command is done. -/
def Remaining (i : Instr) (L : List MicroOp) (s : State) : Prop :=
  (s.mode = .run ∧ (microList s.variant i).drop s.idx.toNat = L ∧ L ≠ []) ∨
    (s.mode = .idle ∧ s.done = true ∧ L = [])

theorem Remaining.entry {i : Instr} {m : MicroOp} {L : List MicroOp} {s : State}
    (h : Remaining i (m :: L) s) :
    s.mode = .run ∧ (microList s.variant i).drop s.idx.toNat = m :: L ∧
      (microList s.variant i)[s.idx.toNat]? = some m := by
  rcases h with ⟨hrun, hdrop, -⟩ | ⟨-, -, hnil⟩
  · exact ⟨hrun, hdrop, by rw [← List.head?_drop, hdrop, List.head?_cons]⟩
  · cases hnil

/-- Going on past its entry leaves a command with the entries after it. -/
theorem Remaining.wentOn {i : Instr} {m : MicroOp} {L : List MicroOp} {s t : State}
    (h : Remaining i (m :: L) s) (hv : t.variant = s.variant) (hw : WentOn i s t) :
    Remaining i L t := by
  obtain ⟨hrun, hdrop, -⟩ := h.entry
  have hlen := congrArg List.length hdrop
  rw [List.length_drop, List.length_cons] at hlen
  rcases hw with ⟨hlast, hmode, -, hdone⟩ | ⟨hinside, hmode, hidx, -⟩
  · exact .inr ⟨hmode, hdone, List.eq_nil_of_length_eq_zero (by omega)⟩
  · refine .inl ⟨hmode.trans hrun, ?_, List.ne_nil_of_length_pos (by omega)⟩
    rw [hv, hidx, ← List.tail_drop, hdrop, List.tail_cons]

/-! ## The run -/

theorem SameData.trans {s t u : State} (h : SameData s t) (h' : SameData t u) : SameData s u :=
  ⟨h'.variant.trans h.variant, h'.rk.trans h.rk, h'.S.trans h.S, h'.pcode.trans h.pcode⟩

/-- `c` is about to run the entries `L` of its accepted command `i` under the masks, with the data
of `s`. -/
structure AboutToRun (i : Instr) (L : List MicroOp) (masks : List Seu) (s c : State) : Prop where
  data : SameData s c
  remaining : Remaining i L c
  accepted : decode c.variant c.top = .instr i
  pinHigh : c.rstLow = false
  refresh : c.recheck = .refresh
  moves : c.agenda = masks.map .core

/-- The state in which a CORE move runs the entry at its position. -/
def underMasks (u : Seu) (rest : List Move) (c : State) : State := { c with agenda := rest, seu := u }

theorem step_underMasks {i : Instr} {u : Seu} {rest : List Move} {c : State} (hl : c.rstLow = false)
    (hrun : c.mode = .run) (hd : decode c.variant c.top = .instr i) (ha : c.agenda = .core u :: rest) :
    Machine.step c = exec i (underMasks u rest c) :=
  (step_core hl ha).trans (coreStep_of_run (s := { c with agenda := rest }) hrun hd)

/-- A CORE step under a tolerated upset has the effect of its entry's rule on the data. -/
theorem AboutToRun.step {i : Instr} {m : MicroOp} {L : List MicroOp} {u : Seu} {masks : List Seu}
    {s c : State} (h : AboutToRun i (m :: L) (u :: masks) s c) (hu : Tolerated m u)
    (hsync : readsPcode m.instr = true → Synced s) :
    ∃ d, Machine.step c = .next d ∧ AboutToRun i L masks (faultFree s m) d ∧
      d.failmask = c.failmask ∧ d.fcause = c.fcause := by
  obtain ⟨hdata, hrem, hd, hl, hr, ha⟩ := h
  obtain ⟨hrun, -, hentry⟩ := hrem.entry
  have hdata' : SameData s (underMasks u (masks.map .core) c) := { hdata with }
  obtain ⟨t, hexec, hwent, hto, hmask, hcause⟩ :=
    exec_tolerated (s := underMasks u (masks.map .core) c) hentry hr hu
      fun hreads => hdata'.synced (hsync hreads)
  obtain ⟨hv, hr', -, -, htop, -, -, hagenda, -, hlow, -⟩ :=
    sequencerFrame i m (underMasks u (masks.map .core) c) t hentry hexec
  refine ⟨t, (step_underMasks hl hrun hd ha).trans hexec, ⟨(hdata'.faultFree m).trans hto, ?_, ?_,
    hlow.trans hl, hr'.trans hr, hagenda⟩, hmask, hcause⟩
  · exact Remaining.wentOn (s := underMasks u (masks.map .core) c) hrem hv hwent
  · rw [hv, htop]
    exact hd

/-- The entries still to run end as they do without an upset, IDLE with DONE and no Fault recorded. -/
theorem run_tolerated {i : Instr} {L : List MicroOp} {s t : State} (h : FaultFreeRun L s t)
    {masks : List Seu} {c : State} (hc : AboutToRun i L masks s c)
    (hlen : masks.length = L.length) (hmasks : ∀ m ∈ L, ∀ u ∈ masks, Tolerated m u) :
    ∃ d, Host.Core.run core L.length c = .next d ∧ SameData t d ∧ d.mode = .idle ∧ d.done = true ∧
      d.failmask = c.failmask ∧ d.fcause = c.fcause := by
  induction h generalizing masks c with
  | nil s =>
    rcases hc.remaining with ⟨-, -, hne⟩ | ⟨hidle, hdone, -⟩
    · exact absurd rfl hne
    · exact ⟨c, rfl, hc.data, hidle, hdone, rfl, rfl⟩
  | @cons m L s t sync _ ih =>
    obtain ⟨u, masks, rfl⟩ := List.exists_cons_of_length_eq_add_one hlen
    obtain ⟨c', hstep, hc', hmask, hcause⟩ :=
      hc.step (hmasks m List.mem_cons_self u List.mem_cons_self) sync
    obtain ⟨d, hrun, hdata, hidle, hdone, hmask', hcause'⟩ := ih hc' (Nat.succ.inj hlen)
      fun m hm u hu => hmasks m (List.mem_cons_of_mem _ hm) u (List.mem_cons_of_mem _ hu)
    exact ⟨d, (run_succ L.length hstep).trans hrun, hdata, hidle, hdone, hmask'.trans hmask,
      hcause'.trans hcause⟩

/-- An accepted command whose list without an upset leads to `X` and its codes leads there in spite of
tolerated upsets. -/
theorem run_command_tolerated {i : Instr} {s : State} {masks : List Seu} {X : Lanes Byte}
    (h : FaultFreeRun (microList s.variant i) s (withData s X (codes X)))
    (hl : s.rstLow = false) (hr : s.recheck = .refresh) (hrun : s.mode = .run)
    (hd : decode s.variant s.top = .instr i) (hidx : s.idx = 0)
    (hlen : masks.length = (microList s.variant i).length)
    (hmasks : ∀ m ∈ microList s.variant i, ∀ u ∈ masks, Tolerated m u)
    (ha : s.agenda = masks.map .core) :
    ∃ t : State, Host.Core.run core masks.length s = .next t ∧ t.S = X ∧ t.pcode = codes X ∧
      t.mode = .idle ∧ t.done = true ∧ t.failmask = s.failmask ∧ t.fcause = s.fcause := by
  have hrem : Remaining i (microList s.variant i) s :=
    .inl ⟨hrun, by rw [hidx]; rfl, List.ne_nil_of_length_pos (microList_length_pos _ _)⟩
  obtain ⟨t, hto, hdata, hidle, hdone, hmask, hcause⟩ :=
    run_tolerated h ⟨⟨rfl, rfl, rfl, rfl⟩, hrem, hd, hl, hr, ha⟩ hlen hmasks
  exact ⟨t, hlen ▸ hto, hdata.S, hdata.pcode, hidle, hdone, hmask, hcause⟩

/-! ## ENC and DEC -/

theorem length_encProg (v : Variant) : (encProg v).length = 4 * v.nr + 1 := by cases v <;> rfl

theorem length_decProg (v : Variant) : (decProg v).length = 5 * v.nr + 1 := by cases v <;> rfl

/-- The only guarded entries of DEC are its GARK steps (45_driver.md R173). -/
theorem decProg_ne (v : Variant) : ∀ m ∈ decProg v, m ≠ .gsub ∧ m ≠ .gmix := by
  cases v <;> decide

/-- Settles O38: the masks of point B are tolerated by every entry. -/
theorem encToleratesSingleBits : Obligations.EncToleratesSingleBits := by
  unfold Obligations.EncToleratesSingleBits
  intro s masks hl hr hrun htop hidx hlen hmasks ha
  rw [← hlen]
  exact run_command_tolerated (i := .enc) (faultFreeRun_encProg s) hl hr hrun
    (htop ▸ decode_encode (i := .enc) rfl) hidx (hlen.trans (length_encProg _).symm)
    (fun m _ u hu => .inl (hmasks u hu)) ha

/-- Settles O39: no entry of DEC is a GSUB or a GMIX, so those of point A are tolerated too. -/
theorem decToleratesSingleBits : Obligations.DecToleratesSingleBits := by
  unfold Obligations.DecToleratesSingleBits
  intro s masks hl hr hrun htop hidx hlen hmasks ha
  rw [← hlen]
  exact run_command_tolerated (i := .dec) (faultFreeRun_decProg s) hl hr hrun
    (htop ▸ decode_encode (i := .dec) rfl) hidx (hlen.trans (length_decProg _).symm)
    (fun m hm u hu => (hmasks u hu).imp_right fun hA => ⟨hA, decProg_ne _ m hm⟩) ha

end Sys2Proof.Machine
end

section
/-! The guarded micro-operations: issued directly without an upset (44_guarded_ops.md R166), and with an
upset at point A that the corrector takes back (70_reset_and_hazards.md R243). -/
namespace Sys2Proof.Machine

/-- Settles O14: the one micro-operation it issues completes with the effect of its rule. -/
theorem guardedFaultFree : Obligations.GuardedFaultFree := by
  unfold Obligations.GuardedFaultFree
  intro i f s hf hidx hseu hsync
  obtain ⟨m, rfl, -⟩ := exists_micro_of_guarded hf
  rw [exec_instr_faultFree hidx hseu hsync, faultFree_of_guarded hf]
  rfl

/-- Settles O17: GSHR and GARK move the mask of point A with the bytes, and the corrector undoes it. -/
theorem singleBitAtARestored : Obligations.SingleBitAtARestored := by
  unfold Obligations.SingleBitAtARestored
  intro i m f s hentry hf hreads hrefresh hu hsync
  obtain ⟨e, hbits, hmicro⟩ := micro_upsetAtA hf hreads hu hsync
  exact exec_upset_restored hentry hmicro hrefresh hbits

end Sys2Proof.Machine
end

section
/-! The micro-operation lists of ENC and DEC by position (45_driver.md R172, R173). -/
namespace Sys2Proof.Machine

theorem nr_pos (v : Variant) : 0 < v.nr := by cases v <;> decide

/-- An entry of the second of two lists, by its position in it. -/
theorem getElem?_append_at {α : Type} {A B : List α} {n r : Nat} (h : n = A.length + r) :
    (A ++ B)[n]? = B[r]? := by
  rw [h, List.getElem?_append_right (Nat.le_add_right _ _), Nat.add_sub_cancel_left]

/-! ## ENC -/

theorem length_encRounds (n : Nat) : (encRounds n).length = 4 * n := by
  induction n with
  | zero => rfl
  | succ n ih => rw [encRounds, List.length_append, ih]; rfl

/-- Round `k` of an encryption stands at `4*(k-1)` of the rounds. -/
theorem encRounds_entry {n k r p : Nat} (hk : 1 ≤ k) (hn : k ≤ n) (hr : r < 4)
    (hp : p + 4 = 4 * k + r) : (encRounds n)[p]? = (encRound k)[r]? := by
  induction n with
  | zero => omega
  | succ n ih =>
    have hlen := length_encRounds n
    rw [encRounds]
    rcases Nat.lt_or_eq_of_le hn with hlt | rfl
    · rw [List.getElem?_append_left (by omega), ih (by omega)]
    · exact getElem?_append_at (by omega)

/-- The part of the program before its last round. -/
theorem length_encProg_head (v : Variant) :
    ([.seed, gark 0] ++ encRounds (v.nr - 1)).length + 2 = 4 * v.nr := by
  have hnr := nr_pos v
  simp only [List.length_append, List.length_cons, List.length_nil, length_encRounds]
  omega

/-- Round `k` stands at `4*k - 2` of the program (45_driver.md R172). -/
theorem encProg_round_entry (v : Variant) {k r p : Nat} (hk : 1 ≤ k) (hnr : k ≤ v.nr - 1)
    (hr : r < 4) (hp : p + 2 = 4 * k + r) : (encProg v)[p]? = (encRound k)[r]? := by
  have hhead := length_encProg_head v
  rw [encProg, List.getElem?_append_left (by omega),
    getElem?_append_at (r := p - 2) (by change p = 2 + (p - 2); omega)]
  exact encRounds_entry hk hnr hr (by omega)

/-- The last round stands at `4*Nr - 2` (R172). -/
theorem encProg_final_entry (v : Variant) {r p : Nat} (hp : p + 2 = 4 * v.nr + r) :
    (encProg v)[p]? = [.gsub, .gshr, gark v.nr][r]? := by
  have hhead := length_encProg_head v
  exact getElem?_append_at (by omega)

/-- Settles O27: each index formula falls in the head, in a round or in the last round. -/
theorem encProgEntries : Obligations.EncProgEntries := by
  unfold Obligations.EncProgEntries
  intro v
  have hnr := nr_pos v
  refine ⟨length_encProg v, rfl, rfl, fun k hk hn => ⟨?_, ?_, ?_, ?_⟩, ?_, ?_, ?_⟩
  · exact encProg_round_entry v (r := 0) hk hn (by decide) (by omega)
  · exact encProg_round_entry v (r := 1) hk hn (by decide) (by omega)
  · exact encProg_round_entry v (r := 2) hk hn (by decide) (by omega)
  · exact encProg_round_entry v (r := 3) hk hn (by decide) (by omega)
  · exact encProg_final_entry v (r := 0) (by omega)
  · exact encProg_final_entry v (r := 1) (by omega)
  · exact encProg_final_entry v (r := 2) (by omega)

/-! ## DEC -/

theorem length_decRounds (n : Nat) : (decRounds n).length = 5 * n := by
  induction n with
  | zero => rfl
  | succ n ih => rw [decRounds, List.length_append, ih, Nat.mul_succ, Nat.add_comm]; rfl

/-- Round `k` of a decryption stands at `5*(n-k)` of the `n` rounds. -/
theorem decRounds_entry {n k r p : Nat} (hk : 1 ≤ k) (hn : k ≤ n) (hr : r < 5)
    (hp : p + 5 * k = 5 * n + r) : (decRounds n)[p]? = (decRound k)[r]? := by
  induction n generalizing p with
  | zero => omega
  | succ n ih =>
    rw [decRounds]
    rcases Nat.lt_or_eq_of_le hn with hlt | rfl
    · rw [getElem?_append_at (r := p - 5) (by change p = 5 + (p - 5); omega)]
      exact ih (by omega) (by omega)
    · obtain rfl : p = r := by omega
      exact List.getElem?_append_left hr

/-- The part of the program before its last round. -/
theorem length_decProg_head (v : Variant) :
    ([.seed, gark v.nr] ++ decRounds (v.nr - 1)).length + 3 = 5 * v.nr := by
  have hnr := nr_pos v
  simp only [List.length_append, List.length_cons, List.length_nil, length_decRounds]
  omega

/-- Round `k` stands at `2 + 5*(Nr-1-k)` of the program (45_driver.md R173). -/
theorem decProg_round_entry (v : Variant) {k r p : Nat} (hk : 1 ≤ k) (hnr : k ≤ v.nr - 1)
    (hr : r < 5) (hp : p = 2 + 5 * (v.nr - 1 - k) + r) : (decProg v)[p]? = (decRound k)[r]? := by
  have hhead := length_decProg_head v
  rw [decProg, List.getElem?_append_left (by omega),
    getElem?_append_at (r := p - 2) (by change p = 2 + (p - 2); omega)]
  exact decRounds_entry hk hnr hr (by omega)

/-- The last round stands at `5*Nr - 3` (R173). -/
theorem decProg_final_entry (v : Variant) {r p : Nat} (hp : p + 3 = 5 * v.nr + r) :
    (decProg v)[p]? = [.ishr, .isub, .seed, gark 0][r]? := by
  have hhead := length_decProg_head v
  exact getElem?_append_at (by omega)

/-- Settles O28: each index formula falls in the head, in a round or in the last round. -/
theorem decProgEntries : Obligations.DecProgEntries := by
  unfold Obligations.DecProgEntries
  intro v
  have hnr := nr_pos v
  refine ⟨length_decProg v, rfl, rfl, fun k hk hn => ⟨?_, ?_, ?_, ?_, ?_⟩, ?_, ?_, ?_, ?_⟩
  · exact decProg_round_entry v (r := 0) hk hn (by decide) (by omega)
  · exact decProg_round_entry v (r := 1) hk hn (by decide) (by omega)
  · exact decProg_round_entry v (r := 2) hk hn (by decide) (by omega)
  · exact decProg_round_entry v (r := 3) hk hn (by decide) (by omega)
  · exact decProg_round_entry v (r := 4) hk hn (by decide) (by omega)
  · exact decProg_final_entry v (r := 0) (by omega)
  · exact decProg_final_entry v (r := 1) (by omega)
  · exact decProg_final_entry v (r := 2) (by omega)
  · exact decProg_final_entry v (r := 3) (by omega)

end Sys2Proof.Machine
end

section
/-! The sequencer's step in the machine (45_driver.md R175, 70_reset_and_hazards.md R245): it runs the accepted
command, always answers a next state, and leaves RUN within the entries of the command's list. -/
namespace Sys2Proof.Machine

/-! ## One step -/

/-- With no move pending the CORE steps without an upset. -/
theorem step_of_no_move {s : State} (hl : s.rstLow = false) (ha : s.agenda = []) :
    step s = coreStep .none s := by
  rw [step_of_rstHigh hl, stepRunning, ha]

/-- Settles O48: with and without a move pending, the step is the CORE's. -/
theorem stepRunsDecodedCommand : Obligations.StepRunsDecodedCommand := by
  unfold Obligations.StepRunsDecodedCommand
  intro s i hl hrun hd
  exact ⟨fun ha => (step_of_no_move hl ha).trans (coreStep_of_run hrun hd),
    fun u rest ha => step_underMasks hl hrun hd ha⟩

theorem exec_next_of_idx_lt {i : Instr} {s : State} (h : s.idx.toNat < (microList s.variant i).length) :
    ∃ t, exec i s = .next t :=
  ⟨_, exec_of_entry (List.getElem?_eq_getElem h)⟩

/-- Settles O30: inside its list a command has an entry to run. -/
theorem sequencerStep : Obligations.SequencerStep := by
  unfold Obligations.SequencerStep
  intro i s h
  obtain ⟨t, hexec⟩ := exec_next_of_idx_lt h
  exact ⟨t, hexec, exec_sequencer hexec⟩

/-- The invariant's sequencer clauses exclude both stops of a CORE step. -/
theorem coreStep_next_of_seqInv (u : Seu) {s : State} (h : SeqInv s) : ∃ t, coreStep u s = .next t := by
  by_cases hrun : s.mode = .run
  · obtain ⟨i, hd⟩ := h.topLegal
    rw [coreStep_of_run hrun hd]
    exact exec_next_of_idx_lt (s := { s with seu := u }) (h.idxInList hrun i hd)
  · exact ⟨s, coreStep_of_ne_run u hrun⟩

/-- Settles O54, move by move: only a CORE step can stop, and the invariant keeps it from that. -/
theorem stepNeverStops : Obligations.StepNeverStops := by
  unfold Obligations.StepNeverStops
  intro s hinv
  by_cases hr : Resets s
  · obtain ⟨b, l, e⟩ := step_of_resets hr
    exact ⟨_, e⟩
  have hl : s.rstLow = false := by simpa using fun hl => hr (.inl hl)
  cases ha : s.agenda with
  | nil =>
    rw [step_of_no_move hl ha]
    exact coreStep_next_of_seqInv .none hinv.seq
  | cons m rest =>
    cases m with
    | core u =>
      rw [step_core hl ha]
      exact coreStep_next_of_seqInv u { hinv.seq with }
    | write a v => exact ⟨_, step_write hl ha⟩
    | read a => exact ⟨_, step_read hl ha⟩
    | rstFall => exact absurd (.inr ⟨rest, ha⟩) hr
    | rstRise => exact ⟨{ s with agenda := rest }, by rw [step_of_rstHigh hl, stepRunning, ha]⟩

/-! ## The end of a command -/

/-- In mode RUN the command `i` has an entry to run, and at most `n` of them. -/
def EntriesLeft (i : Instr) (n : Nat) (s : State) : Prop :=
  s.mode = .run → decode s.variant s.top = .instr i ∧ s.idx.toNat < (microList s.variant i).length ∧
    (microList s.variant i).length ≤ s.idx.toNat + n

/-- A CORE move, whatever its masks, leaves one entry less, or a block that is no longer in RUN. -/
theorem EntriesLeft.step {i : Instr} {n : Nat} {u : Seu} {rest : List Move} {s : State}
    (h : EntriesLeft i (n + 1) s) (hl : s.rstLow = false) (ha : s.agenda = .core u :: rest) :
    ∃ t, Machine.step s = .next t ∧ t.rstLow = false ∧ t.agenda = rest ∧ EntriesLeft i n t := by
  by_cases hrun : s.mode = .run
  · obtain ⟨hd, hlt, hle⟩ := h hrun
    have hentry := List.getElem?_eq_getElem hlt
    have hexec := exec_of_entry (s := underMasks u rest s) hentry
    obtain ⟨hv, -, -, -, htop, -, -, hagenda, -, hlow, -⟩ :=
      sequencerFrame i _ (underMasks u rest s) _ hentry hexec
    refine ⟨_, (step_underMasks hl hrun hd ha).trans hexec, hlow.trans hl, hagenda, fun hmode => ?_⟩
    rw [hv, htop]
    rcases exec_sequencer hexec with ⟨hfault, -⟩ | ⟨-, hidle, -⟩ | ⟨hinside, -, hidx, -⟩
    · exact nomatch hfault.symm.trans hmode
    · exact nomatch hidle.symm.trans hmode
    · rw [hidx]
      exact ⟨hd, hinside, by simp only [underMasks]; omega⟩
  · exact ⟨{ s with agenda := rest }, (step_core hl ha).trans (coreStep_of_ne_run u hrun), hl, rfl,
      fun hmode => absurd hmode hrun⟩

/-- CORE moves for all the entries left end the command, in FAULT or in IDLE. -/
theorem run_core_moves_leaves_run {i : Instr} {masks : List Seu} {s : State}
    (h : EntriesLeft i masks.length s) (hl : s.rstLow = false) (ha : s.agenda = masks.map .core) :
    ∃ t : State, Host.Core.run core masks.length s = .next t ∧ t.mode ≠ .run := by
  induction masks generalizing s with
  | nil =>
    refine ⟨s, rfl, fun hrun => ?_⟩
    obtain ⟨-, hlt, hle⟩ := h hrun
    exact absurd hle (Nat.not_le.2 hlt)
  | cons u masks ih =>
    obtain ⟨t, hstep, hl', ha', h'⟩ := h.step hl ha
    rw [List.length_cons, run_succ masks.length hstep]
    exact ih h' hl' ha'

/-- Settles O41: there are as many moves as entries left. -/
theorem commandTerminates : Obligations.CommandTerminates := by
  unfold Obligations.CommandTerminates
  intro s i masks hl _ hd hlen hne ha
  have hpos := List.length_pos_iff.2 hne
  exact run_core_moves_leaves_run (fun _ => ⟨hd, by omega, by omega⟩) hl ha

end Sys2Proof.Machine
end

section
/-! ENC and DEC without an upset (45_driver.md R170, R171, R179): the run of their lists in the machine, with
its exact final state, and the block that ENC and then DEC restore. -/
namespace Sys2Proof.Machine

/-! ## The run of a list without an upset -/

/-- The state with the sequencer at another position and with other moves and masks of the agents. -/
def atEntry (n : BitVec 8) (u : Seu) (a : List Move) (s : State) : State :=
  { s with idx := n, seu := u, agenda := a }

/-- No rule of a micro-operation reads or writes the position, the moves or the masks. -/
theorem faultFree_atEntry (m : MicroOp) (n : BitVec 8) (u : Seu) (a : List Move) (s : State) :
    faultFree (atEntry n u a s) m = atEntry n u a (faultFree s m) := by
  cases m <;> rfl

theorem faultFree_top (m : MicroOp) (s : State) : (faultFree s m).top = s.top := by
  cases m <;> rfl

/-- The next `k` steps take no move but CORE steps without an upset (45_driver.md R175). -/
def NoUpset (k : Nat) (a : List Move) : Prop := ∀ m ∈ a.take k, m = .core .none

theorem noUpset_nil (k : Nat) : NoUpset k [] := by simp [NoUpset]

theorem noUpset_replicate (k : Nat) (rest : List Move) :
    NoUpset k ((List.replicate k Seu.none).map .core ++ rest) := by
  simp [NoUpset]

theorem NoUpset.tail {k : Nat} {a : List Move} (h : NoUpset (k + 1) a) : NoUpset k a.tail := by
  cases a with
  | nil => exact noUpset_nil k
  | cons m a => exact fun m' hm' => h m' (List.mem_cons_of_mem m hm')

/-- In RUN such a step is one of the accepted command's, without an upset. -/
theorem step_noUpset {i : Instr} {k : Nat} {s : State} (hl : s.rstLow = false) (hrun : s.mode = .run)
    (hd : decode s.variant s.top = .instr i) (ha : NoUpset (k + 1) s.agenda) :
    step s = exec i (underMasks .none s.agenda.tail s) := by
  obtain ⟨hempty, hcore⟩ := stepRunsDecodedCommand s i hl hrun hd
  cases h : s.agenda with
  | nil => rw [hempty h, underMasks, List.tail_nil, ← h]
  | cons m rest =>
    obtain rfl : m = .core .none := by
      rw [h] at ha
      exact ha m List.mem_cons_self
    exact hcore .none rest h

/-- One entry of a list in the machine: the effect of its rule, and the command's end after the last. -/
theorem step_entry_faultFree {i : Instr} {m : MicroOp} {L : List MicroOp} {k : Nat} {n : BitVec 8}
    {u : Seu} {a : List Move} {s : State} (hdrop : (microList s.variant i).drop n.toNat = m :: L)
    (hsync : readsPcode m.instr = true → Synced s) (hl : s.rstLow = false) (hrun : s.mode = .run)
    (hd : decode s.variant s.top = .instr i) (ha : NoUpset (k + 1) a) :
    step (atEntry n u a s) = .next (if L = [] then complete (atEntry n .none a.tail (faultFree s m))
      else atEntry (n + 1) .none a.tail (faultFree s m)) := by
  have hentry : (microList s.variant i)[n.toNat]? = some m := by
    rw [← List.head?_drop, hdrop, List.head?_cons]
  have hlast : n.toNat + 1 = (microList s.variant i).length ↔ L = [] := by
    have hlen := congrArg List.length hdrop
    rw [List.length_drop, List.length_cons] at hlen
    rw [← List.length_eq_zero_iff]
    omega
  have hexec := sequencerStepFaultFree i m (atEntry n .none a.tail s) hentry (fun _ => rfl) hsync
  rw [faultFree_atEntry] at hexec
  exact (step_noUpset (s := atEntry n u a s) hl hrun hd ha).trans
    (hexec.trans (congrArg _ (if_congr hlast rfl rfl)))

/-- The position after an entry that is not the last. -/
theorem drop_next_entry {v : Variant} {i : Instr} {m : MicroOp} {L : List MicroOp} {n : BitVec 8}
    (hdrop : (microList v i).drop n.toNat = m :: L) : (microList v i).drop (n + 1).toNat = L := by
  have hlen := congrArg List.length hdrop
  rw [List.length_drop, List.length_cons] at hlen
  have hle := microList_length_le v i
  have hnext : (n + 1).toNat = n.toNat + 1 := by bv_omega
  rw [hnext, ← List.tail_drop, hdrop, List.tail_cons]

/-- The entries of a list from the position on, each with the effect of its rule, and then IDLE with
DONE. -/
theorem run_entries_faultFree {i : Instr} {L : List MicroOp} {s t : State} (h : FaultFreeRun L s t)
    {n : BitVec 8} {u : Seu} {a : List Move} (hL : L ≠ [])
    (hdrop : (microList s.variant i).drop n.toNat = L) (hl : s.rstLow = false) (hrun : s.mode = .run)
    (hd : decode s.variant s.top = .instr i) (ha : NoUpset L.length a) :
    Host.Core.run core L.length (atEntry n u a s) =
      .next (complete (atEntry 0 .none (a.drop L.length) t)) := by
  induction h generalizing n u a with
  | nil => exact absurd rfl hL
  | @cons m L s t sync hrest ih =>
    have hstep := step_entry_faultFree (u := u) hdrop sync hl hrun hd ha
    rw [List.length_cons, run_succ L.length hstep, ← List.drop_tail]
    by_cases hlast : L = []
    · subst hlast
      cases hrest
      rfl
    · obtain ⟨hv, hlow, -⟩ := faultFree_frame m s
      obtain ⟨hmode, -⟩ := faultFree_control m s
      rw [if_neg hlast]
      exact ih hlast (hv ▸ drop_next_entry hdrop) (hlow.trans hl) (hmode.trans hrun)
        (by rw [hv, faultFree_top, hd]) ha.tail

/-! ## A whole command -/

/-- An accepted command without an upset, from its first entry: the effect of its list, then IDLE with
DONE. -/
theorem run_command_faultFree {i : Instr} {s t : State} (h : FaultFreeRun (microList s.variant i) s t)
    (hl : s.rstLow = false) (hrun : s.mode = .run) (hd : decode s.variant s.top = .instr i)
    (hidx : s.idx = 0) (ha : NoUpset (microList s.variant i).length s.agenda) :
    Host.Core.run core (microList s.variant i).length s = .next (complete
      (atEntry 0 .none (s.agenda.drop (microList s.variant i).length) t)) := by
  have hne := List.ne_nil_of_length_pos (microList_length_pos s.variant i)
  have hs : atEntry 0 s.seu s.agenda s = s := by rw [← hidx]; rfl
  have hentries := run_entries_faultFree (n := 0) (u := s.seu) h hne rfl hl hrun hd ha
  rwa [hs] at hentries

/-- With no move pending nothing but the data, the sequencer and the masks changes. -/
theorem run_command_no_move {i : Instr} {s : State} {X : Lanes Byte} {P : Lanes Nibble}
    (h : FaultFreeRun (microList s.variant i) s (withData s X P)) (hl : s.rstLow = false)
    (hrun : s.mode = .run) (hd : decode s.variant s.top = .instr i) (hidx : s.idx = 0)
    (ha : s.agenda = []) :
    Host.Core.run core (microList s.variant i).length s = .next { s with
      S := X, pcode := P, mode := .idle, idx := 0, done := true, seu := .none } := by
  have hdrop : s.agenda.drop (microList s.variant i).length = s.agenda := by rw [ha, List.drop_nil]
  have hno : NoUpset (microList s.variant i).length s.agenda := ha ▸ noUpset_nil _
  rw [run_command_faultFree h hl hrun hd hidx hno, hdrop]
  rfl

/-- Settles O35: the list of ENC computes the cipher. -/
theorem encComputesCipher : Obligations.EncComputesCipher := by
  unfold Obligations.EncComputesCipher
  intro s hl hrun htop hidx ha
  rw [← length_encProg]
  exact run_command_no_move (i := .enc) (faultFreeRun_encProg s) hl hrun
    (htop ▸ decode_encode (i := .enc) rfl) hidx ha

/-- Settles O36: the list of DEC computes the inverse cipher. -/
theorem decComputesInvCipher : Obligations.DecComputesInvCipher := by
  unfold Obligations.DecComputesInvCipher
  intro s hl hrun htop hidx ha
  rw [← length_decProg]
  exact run_command_no_move (i := .dec) (faultFreeRun_decProg s) hl hrun
    (htop ▸ decode_encode (i := .dec) rfl) hidx ha

/-! ## ENC and then DEC (45_driver.md R179) -/

/-- The rounds of a decryption take back those of an encryption, last round first, ShiftRows and SubBytes
of the following round left over at each end. -/
theorem invCipherRounds_cipherRounds (rk : Memory) (n : Nat) (X : Lanes Byte) :
    invCipherRounds rk n (shiftRows (subBytes (cipherRounds rk n X))) = shiftRows (subBytes X) := by
  induction n with
  | zero => rfl
  | succ n ih =>
    rw [cipherRounds, invCipherRounds, invShiftRows_shiftRows, invSubBytes_subBytes,
      addRoundKey_addRoundKey, invMixColumns_mixColumns, ih]

theorem invCipher_cipher (v : Variant) (rk : Memory) (X : Lanes Byte) :
    invCipher v rk (cipher v rk X) = X := by
  rw [invCipher, cipher, addRoundKey_addRoundKey, invCipherRounds_cipherRounds,
    invShiftRows_shiftRows, invSubBytes_subBytes, addRoundKey_addRoundKey]

theorem issueWait_append (v : Variant) (i : Instr) (rest : List Move) :
    issueWait v i ++ rest =
      issue i :: ((List.replicate (microList v i).length Seu.none).map .core ++ rest) := rfl

theorem length_issueWait (v : Variant) (i : Instr) :
    (issueWait v i).length = (microList v i).length + 1 := by
  simp [issueWait, issueWith]

/-- A command line and its wait, without an upset: accepted in one step and done after its list, which
takes the block to its image under `f`. -/
theorem run_issueWait_command {i : Instr} {f : Variant → Memory → Lanes Byte → Lanes Byte}
    (h : ∀ c, FaultFreeRun (microList c.variant i) c
      (withData c (f c.variant c.rk c.S) (codes (f c.variant c.rk c.S))))
    {s : State} {rest : List Move} (hwf : i.wellFormed s.variant = true) (hl : s.rstLow = false)
    (hidle : s.mode = .idle) (ha : s.agenda = issueWait s.variant i ++ rest) :
    Host.Core.run core (issueWait s.variant i).length s = .next (complete (atEntry 0 .none rest
      (withData (acceptCommand (encode i) s) (f s.variant s.rk s.S)
        (codes (f s.variant s.rk s.S))))) := by
  rw [issueWait_append] at ha
  generalize hmoves :
    (List.replicate (microList s.variant i).length Seu.none).map Move.core ++ rest = moves at ha
  have hno : NoUpset (microList s.variant i).length moves := hmoves ▸ noUpset_replicate _ rest
  have hdrop : moves.drop (microList s.variant i).length = rest := by simp [← hmoves]
  have hrun := run_command_faultFree (h (acceptCommand (encode i) { s with agenda := moves })) hl rfl
    (decode_encode hwf) rfl hno
  rw [length_issueWait, run_succ _ (step_issue hl hidle hwf ha), ← hdrop]
  exact hrun

/-- Settles O37: each command takes the block to its cipher's image, and the ciphers are inverse. -/
theorem encDecRoundTrip : Obligations.EncDecRoundTrip := by
  unfold Obligations.EncDecRoundTrip
  intro s hl hidle ha
  have henc := run_issueWait_command (i := .enc) faultFreeRun_encProg rfl hl hidle ha
  exact ⟨_, _, henc, rfl, rfl, rfl, rfl,
    run_issueWait_command (i := .dec) faultFreeRun_decProg rfl hl rfl (List.append_nil _).symm,
    rfl, rfl, invCipher_cipher s.variant s.rk s.S, rfl⟩

end Sys2Proof.Machine
end

section
/-! NOP and CLRSTAT (46_system.md R190, R191): one sequencer step each (45_driver.md R175). -/
namespace Sys2Proof.Machine

/-- Settles O26: both are unguarded lists of one entry, so each completes with the effect of its rule:
none for NOP, `clearStatus` for CLRSTAT. -/
theorem systemResults : Obligations.SystemResults := by
  unfold Obligations.SystemResults
  intro s hidx
  have hnop : exec .nop s = .next (complete s) := exec_instr_unguarded (m := .nop) hidx rfl
  have hclrstat : exec .clrstat s = .next (complete (clearStatus s)) :=
    exec_instr_unguarded (m := .clrstat) hidx rfl
  exact ⟨hnop, hclrstat⟩

end Sys2Proof.Machine
end

section
/-! Hazards of the old PCODE (70_reset_and_hazards.md): a stale PCODE seen without an upset (R241), and a flip
of State between two micro-operations (R242). -/
namespace Sys2Proof.Machine

/-! ## A stale PCODE -/

theorem upsetResult_none (f : Lanes Byte → Lanes Byte) (m : MicroOp) {s : State} (h : s.seu = .none) :
    upsetResult f m s = withData s (f s.S) (predictedCode s m) := by
  simp only [upsetResult, withData, h, Seu.none, Lanes.xor_fill_zero]

/-- A guarded micro-operation issued directly, without an upset but with a syndrome, records its syndromes
whatever its verdict (43_verify_correct.md R148). -/
theorem exec_instr_lastdiff {m : MicroOp} {f : Lanes Byte → Lanes Byte} {s : State} {d : Lanes Nibble}
    (hf : guardedTransform s.rk m.instr = some f) (hidx : s.idx = 0) (hseu : s.seu = .none)
    (hdiff : syndromes (f s.S) (predictedCode s m) = d) (hevent : ∃ n, d.get n ≠ 0) :
    ∃ t, exec m.instr s = .next t ∧ t.lastdiff = d := by
  have hentry : (microList s.variant m.instr)[s.idx.toNat]? = some m := by
    rw [microList_instr, hidx]; rfl
  subst hdiff
  obtain ⟨_, _, _, _, hrecord⟩ := verifyCorrect_record (encode m.instr)
    (s := withData s (f s.S) (predictedCode s m)) (hevent.imp fun n hn => get_syndromes_eq _ n ▸ hn)
  obtain ⟨_, _, _, hadvance⟩ := advance_frame (microList s.variant m.instr).length (micro m s)
  refine ⟨_, exec_of_entry hentry, ?_⟩
  rw [hadvance, micro_eq_verifyCorrect hf, upsetResult_none f m hseu, hrecord]
  rfl

/-- GARK adds the round key to the bytes and its codes to the old PCODE: every byte keeps its syndrome. -/
theorem syndromes_gark (s : State) (k : BitVec 4) :
    syndromes (addRoundKey s.rk k.toNat s.S) (predictedCode s (.gark k)) = syndromes s.S s.pcode :=
  Lanes.ext_get fun n => by
    simp only [addRoundKey, predictedCode, get_syndromes, Lanes.get_xor, get_codes, codeOf_xor]
    rw [BitVec.xor_comm (s.pcode.get n), BitVec.xor_assoc, xor_self_xor]

/-- GSHR moves the old PCODE with the bytes: every syndrome moves with its byte. -/
theorem syndromes_gshr (s : State) :
    syndromes (shiftRows s.S) (predictedCode s .gshr) = shiftRows (syndromes s.S s.pcode) := rfl

theorem shiftRows_ne_zero {d : Lanes Nibble} (h : ∃ n, d.get n ≠ 0) : ∃ n, (shiftRows d).get n ≠ 0 := by
  obtain ⟨n, hn⟩ := h
  by_contra! hall
  have hzero : shiftRows d = .fill 0 := Lanes.ext_get fun p => by rw [hall p, Lanes.get_fill]
  have hd : d = .fill 0 := (invShiftRows_shiftRows d).symm.trans (congrArg invShiftRows hzero)
  exact hn (by rw [hd, Lanes.get_fill])

/-- Settles O22: GARK keeps the syndromes of the old PCODE and GSHR moves them, and the verification
records them. -/
theorem stalePcodeIsSeen : Obligations.StalePcodeIsSeen := by
  unfold Obligations.StalePcodeIsSeen
  intro s hidx hseu hstale
  have hevent : ∃ n, (syndromes s.S s.pcode).get n ≠ 0 :=
    hstale.imp fun n hn => (get_syndromes_eq s n).symm ▸ hn
  constructor
  · intro k
    obtain ⟨t, hexec, hdiff⟩ :=
      exec_instr_lastdiff (m := .gark k) rfl hidx hseu (syndromes_gark s k) hevent
    exact ⟨t, hexec, fun n => by rw [hdiff, get_syndromes_eq]⟩
  · exact exec_instr_lastdiff (m := .gshr) rfl hidx hseu (syndromes_gshr s) (shiftRows_ne_zero hevent)

/-! ## The masks after the phases -/

/-- The state with other masks of the environment. -/
def withMasks (u : Seu) (s : State) : State := { s with seu := u }

theorem advance_ok_withMasks (len : Nat) (u : Seu) (s : State) :
    advance len (.ok (withMasks u s)) = withMasks u (advance len (.ok s)) := by
  by_cases hlast : s.idx.toNat + 1 = len
  · rw [advance_ok_last hlast]
    exact advance_ok_last hlast
  · rw [advance_ok_inside hlast]
    exact advance_ok_inside hlast

/-- Neither the verification nor the sequencer reads the masks (43_verify_correct.md R150, 45_driver.md
R175). -/
theorem advance_verifyCorrect_withMasks (len : Nat) (op : Byte) (u : Seu) (s : State) :
    advance len (verifyCorrect op (withMasks u s)) = withMasks u (advance len (verifyCorrect op s)) := by
  rcases verifyCorrect_cases op s with ⟨hquiet, e⟩ | ⟨hevent, hpass, e⟩ | ⟨hevent, hfail, e⟩ <;> rw [e]
  · rw [verifyCorrect_quiet op (withMasks u s) hquiet, advance_ok_withMasks]
  · rw [verifyCorrect_event op (withMasks u s) hevent, if_pos (c := failMask (withMasks u s) = 0) hpass,
      ← advance_ok_withMasks]
    rfl
  · rw [verifyCorrect_of_failing op (s := withMasks u s) hfail]
    rfl

/-! ## A flip of State between two micro-operations -/

theorem Lanes.xor_assoc {w : Nat} (x y z : Lanes (BitVec w)) : (x.xor y).xor z = x.xor (y.xor z) :=
  Lanes.ext_get fun n => by simp only [Lanes.get_xor, BitVec.xor_assoc]

/-- The flip `e` of State before a step with the masks `u`. -/
def flipped (e : Lanes Byte) (u : Seu) (s : State) : State := { s with S := s.S.xor e, seu := u }

/-- The predictors of GSHR and GARK do not read State (42_prediction.md R131, R133). -/
theorem predictedCode_flipped {m : MicroOp} (h : readsPcode m.instr = true) (e : Lanes Byte) (u : Seu)
    (s : State) : predictedCode (flipped e u s) m = predictedCode s m := by
  cases m with
  | gshr | gark => rfl
  | _ => cases h

theorem predictedCode_withMasks (m : MicroOp) (u : Seu) (s : State) :
    predictedCode (withMasks u s) m = predictedCode s m := by
  cases m <;> rfl

/-- To the phases of GSHR and GARK a flip before the step is one at point A. -/
theorem upsetResult_flipped {m : MicroOp} (h : readsPcode m.instr = true) (f : Lanes Byte → Lanes Byte)
    (e : Lanes Byte) (u : Seu) (s : State) :
    upsetResult f m (flipped e u s) =
      withMasks u (upsetResult f m (withMasks { u with a := e.xor u.a } s)) := by
  rw [upsetResult, upsetResult, predictedCode_flipped h, predictedCode_withMasks]
  simp only [flipped, withMasks, Lanes.xor_assoc]

section
variable {i : Instr} {m : MicroOp} {f : Lanes Byte → Lanes Byte} {s : State}
  (hentry : (microList s.variant i)[s.idx.toNat]? = some m)
  (hf : guardedTransform s.rk m.instr = some f)
include hentry hf

/-- Before GSHR or GARK the flip acts as mask `a` of the step. -/
theorem exec_flipped_of_readsPcode (hreads : readsPcode m.instr = true) (e : Lanes Byte) (u : Seu) :
    ∃ t, exec i (flipped e u s) = .next (withMasks u t) ∧
      exec i (withMasks { u with a := e.xor u.a } s) = .next t := by
  refine ⟨_, ?_, exec_of_entry hentry⟩
  rw [exec_of_entry (s := flipped e u s) hentry, micro_eq_verifyCorrect (s := flipped e u s) hf,
    micro_eq_verifyCorrect (s := withMasks { u with a := e.xor u.a } s) hf, upsetResult_flipped hreads,
    advance_verifyCorrect_withMasks]
  rfl

/-- Before GSUB or GMIX the flipped State is predicted from and transformed as any other. -/
theorem exec_flipped_absorbed (hreads : readsPcode m.instr = false) (e : Lanes Byte) :
    ∃ t, exec i (flipped e .none s) = .next t ∧ WentOn i s t ∧ t.S = f (s.S.xor e) ∧
      t.pcode = codes t.S ∧ t.lastdiff = s.lastdiff := by
  have hok := micro_faultFree (m := m) (s := flipped e .none s) rfl
    fun h => absurd (hreads.symm.trans h) nofun
  rw [faultFree_of_guarded (s := flipped e .none s) hf] at hok
  obtain ⟨_, _, _, hexec, hwent⟩ := exec_of_ok (s := flipped e .none s) hentry hok rfl rfl rfl
  exact ⟨_, hexec, hwent, rfl, rfl, rfl⟩

end

/-- Settles O23: GSHR and GARK predict from the old PCODE and see the flip, GSUB and GMIX predict from the
flipped State and do not. -/
theorem flipBetweenSteps : Obligations.FlipBetweenSteps := by
  unfold Obligations.FlipBetweenSteps
  intro i m f s e u hentry hf
  exact ⟨fun hreads => exec_flipped_of_readsPcode hentry hf hreads e u,
    fun hreads => exec_flipped_absorbed hentry hf hreads e⟩

end Sys2Proof.Machine
end
